-- ==== Sys2Proof/Word.lean ====
section
/-!
DEFINITION. The words of the block (00_scope.md R9): a byte is 8 bits, a word of a stream is 16 bits, a register is
XLEN = 32 bits. Bit 0 is the least significant bit.
-/

namespace Sys2Proof

/-- A byte of a memory or of a command stream (R9). -/
abbrev Byte := BitVec 8

/-- A 16-bit operand of a command (R9, R61). -/
abbrev Half := BitVec 16

/-- A host-visible register, XLEN = 32 bits (R7, R9, decision D5). -/
abbrev Word := BitVec 32

end Sys2Proof
end

