-- ==== Sys2Proof/Syntax.lean ====
section
/-!
DEFINITION. The instructions: one constructor for each row of spec/opcode_table.json (30_encoding.md R93). A constructor
holds exactly the fields of the row's encoding, so that every bit of an encoding that means something is kept. Literal
forms hold their payload bytes; the count field is the payload's length.
-/

namespace Sys2Proof

/-- Which of the three tables of R93 a row belongs to. For a stream it is the running phase (R80); the CTRL rows are host
writes of CTRL (R90). -/
inductive Mode where
  | lcw | xd | ctrl
  deriving DecidableEq, Repr

inductive Instr where
  /-- LCW.REL `0cccdddd dddddddd` (R82, R107). -/
  | lcwRel (c : BitVec 3) (d : BitVec 12)
  /-- LCW.END `0x80` (R105). -/
  | lcwEnd
  /-- LCW.LIT `10nnnnnn` and n payload bytes, n from 1 to 63 (R106). -/
  | lcwLit (payload : List Byte)
  /-- LCW.ABS `11cccccc` and a position, c at most 0x3D (R108). -/
  | lcwAbs (c : BitVec 6) (p : Half)
  /-- LCW.FILL `0xFE`, a count and the fill byte (R109). -/
  | lcwFill (n : Half) (v : Byte)
  /-- LCW.ABSL `0xFF`, a count and a position (R110). -/
  | lcwAbsl (n : Half) (p : Half)
  /-- XD.FILL `0x00`, a count and a value (R146). -/
  | xdFill (n : Byte) (v : Byte)
  /-- XD.XOR `0nnnnnnn` and n update bytes, n from 1 to 127 (R145). -/
  | xdXor (payload : List Byte)
  /-- XD.SKIP `1nnnnnnn`, n from 1 to 127 (R144). -/
  | xdSkip (n : BitVec 7)
  /-- XD.END `80 00 00` (R147). -/
  | xdEnd
  /-- XD.SKIPL `0x80` and a word with bit 15 clear, not 0 (R148). -/
  | xdSkipl (n : BitVec 15)
  /-- XD.XORL `0x80`, a word with top bits 10, and n update bytes, n from 0 to 16383 (R149). -/
  | xdXorl (payload : List Byte)
  /-- XD.FILLL `0x80`, a word with top bits 11, and a value (R150). -/
  | xdFilll (n : BitVec 14) (v : Byte)
  /-- CTRL.NOP: CTRL.OP = 0; only CTRL.REL is written (R181). -/
  | ctrlNop (rel : Bool)
  /-- CTRL.START_LCW: CTRL.OP = 1 (R183). -/
  | ctrlStartLcw (rel : Bool)
  /-- CTRL.START_XD: CTRL.OP = 2 (R184). -/
  | ctrlStartXd (rel : Bool)
  /-- CTRL.START_FRAME: CTRL.OP = 3 (R185). -/
  | ctrlStartFrame (rel : Bool)
  /-- CTRL.CLEAR_FRM: CTRL.OP = 4 (R186). -/
  | ctrlClearFrm (rel : Bool)
  /-- CTRL.RESERVED: CTRL.OP = 5, 6 or 7 (R190). -/
  | ctrlReserved (op : BitVec 3) (rel : Bool)
  deriving DecidableEq, Repr

/-- The table a constructor's row belongs to (R93). -/
def Instr.mode : Instr → Mode
  | .lcwRel _ _ | .lcwEnd | .lcwLit _ | .lcwAbs _ _ | .lcwFill _ _ | .lcwAbsl _ _ => .lcw
  | .xdFill _ _ | .xdXor _ | .xdSkip _ | .xdEnd | .xdSkipl _ | .xdXorl _ | .xdFilll _ _ => .xd
  | .ctrlNop _ | .ctrlStartLcw _ | .ctrlStartXd _ | .ctrlStartFrame _ | .ctrlClearFrm _ | .ctrlReserved _ _ => .ctrl

/-- The command's length in input bytes, the SP advance (R83, R86). A CTRL row is a host register write and has none. -/
def Instr.length : Instr → Nat
  | .lcwRel _ _ => 2
  | .lcwEnd => 1
  | .lcwLit payload => 1 + payload.length
  | .lcwAbs _ _ => 3
  | .lcwFill _ _ => 4
  | .lcwAbsl _ _ => 5
  | .xdFill _ _ => 3
  | .xdXor payload => 1 + payload.length
  | .xdSkip _ => 1
  | .xdEnd => 3
  | .xdSkipl _ => 3
  | .xdXorl payload => 3 + payload.length
  | .xdFilll _ _ => 4
  | .ctrlNop _ | .ctrlStartLcw _ | .ctrlStartXd _ | .ctrlStartFrame _ | .ctrlClearFrm _ | .ctrlReserved _ _ => 0

end Sys2Proof
end

