-- ==== Sys2Proof/WellFormed.lean ====
section
/-!
DEFINITION. Which terms of `Instr` an encoding can say (30_encoding.md R81, R84, R85, R90, R91): the decoder answers only
these.
-/

namespace Sys2Proof

/-- The operand ranges of R91 that the fields' widths do not already give. -/
def Instr.wf : Instr → Bool
  | .lcwLit payload => 1 ≤ payload.length && payload.length ≤ 63
  | .lcwAbs c _ => c.toNat ≤ 0x3D
  | .xdXor payload => 1 ≤ payload.length && payload.length ≤ 127
  | .xdSkip n => n != 0
  | .xdSkipl n => n != 0
  | .xdXorl payload => payload.length ≤ 16383
  | .ctrlReserved op _ => 5 ≤ op.toNat
  | .lcwRel _ _ | .lcwEnd | .lcwFill _ _ | .lcwAbsl _ _ => true
  | .xdFill _ _ | .xdEnd | .xdFilll _ _ => true
  | .ctrlNop _ | .ctrlStartLcw _ | .ctrlStartXd _ | .ctrlStartFrame _ | .ctrlClearFrm _ => true

end Sys2Proof
end

