-- ==== Sys2Proof/Decode.lean ====
section
/-!
DEFINITION. Decoding and encoding (30_encoding.md). A stream is decoded in the mode of the running phase (R80); a CTRL write
by its OP field (R90). Every command byte and every long-form word selects a command (R88), so the one way a stream fails
to decode is that it ends inside a command, which the engine reports as INPUT_OVERRUN (60_exceptions.md R202).
-/

namespace Sys2Proof

/-! ### Fields and byte order -/

/-- R61: the byte at the lower address is bits 7:0, the next byte bits 15:8. -/
def half (lo hi : Byte) : Half := hi ++ lo

/-- The two bytes of a 16-bit operand in stream order (R61). -/
def halfBytes (w : Half) : List Byte := [w.extractLsb' 0 8, w.extractLsb' 8 8]

/-- The first `n` bytes of a stream and the rest, if there are `n`. -/
def takeBytes : Nat → List Byte → Option (List Byte × List Byte)
  | 0, bs => some ([], bs)
  | _ + 1, [] => none
  | n + 1, b :: bs =>
    match takeBytes n bs with
    | some (front, rest) => some (b :: front, rest)
    | none => none

/-! ### Decoding -/

/-- What a decoder reads from its input. -/
inductive Decoded where
  /-- A command, and the stream after it. -/
  | command (i : Instr) (rest : List Byte)
  /-- The stream ends before the command does: INPUT_OVERRUN (R202). -/
  | inputOverrun
  deriving DecidableEq, Repr

/-- A literal form: `n` payload bytes, then the rest (R82, R84, R85). -/
def decodePayload (n : Nat) (bs : List Byte) (mk : List Byte → Instr) : Decoded :=
  match takeBytes n bs with
  | some (payload, rest) => .command (mk payload) rest
  | none => .inputOverrun

/-- LCW.REL after its command byte (R82, R87). -/
def decodeLcwRel (b0 : Byte) : List Byte → Decoded
  | b1 :: rest => .command (.lcwRel (b0.extractLsb' 4 3) (b0.extractLsb' 0 4 ++ b1)) rest
  | [] => .inputOverrun

/-- LCW.FILL after its command byte (R82). -/
def decodeLcwFill : List Byte → Decoded
  | n0 :: n1 :: v :: rest => .command (.lcwFill (half n0 n1) v) rest
  | _ => .inputOverrun

/-- LCW.ABSL after its command byte (R82). -/
def decodeLcwAbsl : List Byte → Decoded
  | n0 :: n1 :: p0 :: p1 :: rest => .command (.lcwAbsl (half n0 n1) (half p0 p1)) rest
  | _ => .inputOverrun

/-- LCW.ABS after its command byte (R82). -/
def decodeLcwAbs (b0 : Byte) : List Byte → Decoded
  | p0 :: p1 :: rest => .command (.lcwAbs (b0.extractLsb' 0 6) (half p0 p1)) rest
  | _ => .inputOverrun

/-- The LCW table, in the decoding order of R81. -/
def decodeLcw : List Byte → Decoded
  | [] => .inputOverrun
  | b0 :: rest =>
    if b0.getLsbD 7 = false then decodeLcwRel b0 rest
    else if b0.getLsbD 6 = false then
      if b0.extractLsb' 0 6 = 0#6 then .command .lcwEnd rest
      else decodePayload (b0.extractLsb' 0 6).toNat rest .lcwLit
    else if b0.extractLsb' 0 6 = 0x3E#6 then decodeLcwFill rest
    else if b0.extractLsb' 0 6 = 0x3F#6 then decodeLcwAbsl rest
    else decodeLcwAbs b0 rest

/-- XD.FILL after its command byte (R84). -/
def decodeXdFill : List Byte → Decoded
  | n :: v :: rest => .command (.xdFill n v) rest
  | _ => .inputOverrun

/-- XD.FILLL after its word (R85). -/
def decodeXdFilll (w : Half) : List Byte → Decoded
  | v :: rest => .command (.xdFilll (w.extractLsb' 0 14) v) rest
  | [] => .inputOverrun

/-- The XD long forms, selected by the word after the byte 0x80 (R85). -/
def decodeXdLong (w : Half) (rest : List Byte) : Decoded :=
  if w = 0#16 then .command .xdEnd rest
  else if w.getLsbD 15 = false then .command (.xdSkipl (w.extractLsb' 0 15)) rest
  else if w.getLsbD 14 = false then decodePayload (w.extractLsb' 0 14).toNat rest .xdXorl
  else decodeXdFilll w rest

/-- The XD table (R84, R140). -/
def decodeXd : List Byte → Decoded
  | [] => .inputOverrun
  | b0 :: rest =>
    if b0 = 0x80#8 then
      match rest with
      | w0 :: w1 :: rest => decodeXdLong (half w0 w1) rest
      | _ => .inputOverrun
    else if b0 = 0x00#8 then decodeXdFill rest
    else if b0.getLsbD 7 = false then decodePayload (b0.extractLsb' 0 7).toNat rest .xdXor
    else .command (.xdSkip (b0.extractLsb' 0 7)) rest

/-- A host write of `x` to CTRL, read by its OP field x[2:0] with REL = x[8] (R90, R180). -/
def decodeCtrl (x : Word) : Instr :=
  let rel := x.getLsbD 8
  let op := x.extractLsb' 0 3
  if op = 0#3 then .ctrlNop rel
  else if op = 1#3 then .ctrlStartLcw rel
  else if op = 2#3 then .ctrlStartXd rel
  else if op = 3#3 then .ctrlStartFrame rel
  else if op = 4#3 then .ctrlClearFrm rel
  else .ctrlReserved op rel

/-- An encoded instruction: bytes of an LCW stream, bytes of an XD stream, or a value written to CTRL (R93 `mode`). -/
inductive Code where
  | lcw (bs : List Byte)
  | xd (bs : List Byte)
  | ctrl (x : Word)
  deriving DecidableEq, Repr

/-- The three tables as one decoder (R93). -/
def decode : Code → Decoded
  | .lcw bs => decodeLcw bs
  | .xd bs => decodeXd bs
  | .ctrl x => .command (decodeCtrl x) []

/-! ### Encoding -/

/-- The bytes of a command in stream order (R82, R84, R85, R91). A CTRL row has none. -/
def Instr.bytes : Instr → List Byte
  | .lcwRel c d => [0#1 ++ c ++ d.extractLsb' 8 4, d.extractLsb' 0 8]
  | .lcwEnd => [0x80#8]
  | .lcwLit payload => (2#2 ++ BitVec.ofNat 6 payload.length) :: payload
  | .lcwAbs c p => (3#2 ++ c) :: halfBytes p
  | .lcwFill n v => 0xFE#8 :: (halfBytes n ++ [v])
  | .lcwAbsl n p => 0xFF#8 :: (halfBytes n ++ halfBytes p)
  | .xdFill n v => [0x00#8, n, v]
  | .xdXor payload => (0#1 ++ BitVec.ofNat 7 payload.length) :: payload
  | .xdSkip n => [1#1 ++ n]
  | .xdEnd => [0x80#8, 0x00#8, 0x00#8]
  | .xdSkipl n => 0x80#8 :: halfBytes (0#1 ++ n)
  | .xdXorl payload => 0x80#8 :: (halfBytes (2#2 ++ BitVec.ofNat 14 payload.length) ++ payload)
  | .xdFilll n v => 0x80#8 :: (halfBytes (3#2 ++ n) ++ [v])
  | .ctrlNop _ | .ctrlStartLcw _ | .ctrlStartXd _ | .ctrlStartFrame _ | .ctrlClearFrm _ | .ctrlReserved _ _ => []

/-- A CTRL value with the given OP and REL and every reserved bit 0 (R23). -/
def ctrlValue (op : BitVec 3) (rel : Bool) : Word := 0#23 ++ BitVec.ofBool rel ++ 0#5 ++ op

/-- The value a host writes to CTRL for a control operation (R90); 0 for a command. -/
def Instr.ctrlWord : Instr → Word
  | .ctrlNop rel => ctrlValue 0#3 rel
  | .ctrlStartLcw rel => ctrlValue 1#3 rel
  | .ctrlStartXd rel => ctrlValue 2#3 rel
  | .ctrlStartFrame rel => ctrlValue 3#3 rel
  | .ctrlClearFrm rel => ctrlValue 4#3 rel
  | .ctrlReserved op rel => ctrlValue op rel
  | .lcwRel _ _ | .lcwEnd | .lcwLit _ | .lcwAbs _ _ | .lcwFill _ _ | .lcwAbsl _ _ => 0#32
  | .xdFill _ _ | .xdXor _ | .xdSkip _ | .xdEnd | .xdSkipl _ | .xdXorl _ | .xdFilll _ _ => 0#32

/-- `i` encoded in its own mode and, for a command, followed by the stream `rest`. -/
def Instr.encodeWith (i : Instr) (rest : List Byte) : Code :=
  match i.mode with
  | .lcw => .lcw (i.bytes ++ rest)
  | .xd => .xd (i.bytes ++ rest)
  | .ctrl => .ctrl i.ctrlWord

/-- The encoding of an instruction. -/
def encode (i : Instr) : Code := i.encodeWith []

/-! ### The opcode table as data (R93) -/

/-- The mnemonics of spec/opcode_table.json. -/
inductive Mnemonic where
  | lcwRel | lcwEnd | lcwLit | lcwAbs | lcwFill | lcwAbsl
  | xdFill | xdXor | xdSkip | xdEnd | xdSkipl | xdXorl | xdFilll
  | ctrlNop | ctrlStartLcw | ctrlStartXd | ctrlStartFrame | ctrlClearFrm | ctrlReserved
  deriving DecidableEq, Repr

/-- The row an instruction belongs to. -/
def Instr.mnemonic : Instr → Mnemonic
  | .lcwRel _ _ => .lcwRel
  | .lcwEnd => .lcwEnd
  | .lcwLit _ => .lcwLit
  | .lcwAbs _ _ => .lcwAbs
  | .lcwFill _ _ => .lcwFill
  | .lcwAbsl _ _ => .lcwAbsl
  | .xdFill _ _ => .xdFill
  | .xdXor _ => .xdXor
  | .xdSkip _ => .xdSkip
  | .xdEnd => .xdEnd
  | .xdSkipl _ => .xdSkipl
  | .xdXorl _ => .xdXorl
  | .xdFilll _ _ => .xdFilll
  | .ctrlNop _ => .ctrlNop
  | .ctrlStartLcw _ => .ctrlStartLcw
  | .ctrlStartXd _ => .ctrlStartXd
  | .ctrlStartFrame _ => .ctrlStartFrame
  | .ctrlClearFrm _ => .ctrlClearFrm
  | .ctrlReserved _ _ => .ctrlReserved

/-- One row of the table: its key is the first `keyBytes` bytes of the command, the first byte most significant; for the
CTRL rows it is CTRL[2:0] (R93). -/
structure OpcodeRow where
  name : Mnemonic
  mode : Mode
  keyBytes : Nat
  pattern : BitVec 24
  mask : BitVec 24
  excludes : List Mnemonic
  deriving DecidableEq, Repr

/-- The rows' `match`, `mask` and `excludes`, copied from spec/opcode_table.json. -/
def opcodeTable : List OpcodeRow :=
  [ ⟨.lcwRel, .lcw, 1, 0x00, 0x80, []⟩,
    ⟨.lcwEnd, .lcw, 1, 0x80, 0xFF, []⟩,
    ⟨.lcwLit, .lcw, 1, 0x80, 0xC0, [.lcwEnd]⟩,
    ⟨.lcwAbs, .lcw, 1, 0xC0, 0xC0, [.lcwFill, .lcwAbsl]⟩,
    ⟨.lcwFill, .lcw, 1, 0xFE, 0xFF, []⟩,
    ⟨.lcwAbsl, .lcw, 1, 0xFF, 0xFF, []⟩,
    ⟨.xdFill, .xd, 1, 0x00, 0xFF, []⟩,
    ⟨.xdXor, .xd, 1, 0x00, 0x80, [.xdFill]⟩,
    ⟨.xdSkip, .xd, 1, 0x80, 0x80, [.xdEnd, .xdSkipl, .xdXorl, .xdFilll]⟩,
    ⟨.xdEnd, .xd, 3, 0x800000, 0xFFFFFF, []⟩,
    ⟨.xdSkipl, .xd, 3, 0x800000, 0xFF0080, [.xdEnd]⟩,
    ⟨.xdXorl, .xd, 3, 0x800080, 0xFF00C0, []⟩,
    ⟨.xdFilll, .xd, 3, 0x8000C0, 0xFF00C0, []⟩,
    ⟨.ctrlNop, .ctrl, 0, 0x0, 0x7, []⟩,
    ⟨.ctrlStartLcw, .ctrl, 0, 0x1, 0x7, []⟩,
    ⟨.ctrlStartXd, .ctrl, 0, 0x2, 0x7, []⟩,
    ⟨.ctrlStartFrame, .ctrl, 0, 0x3, 0x7, []⟩,
    ⟨.ctrlClearFrm, .ctrl, 0, 0x4, 0x7, []⟩,
    ⟨.ctrlReserved, .ctrl, 0, 0x4, 0x4, [.ctrlClearFrm]⟩ ]

/-- Byte `k` of a stream; past its end 0, which is read only for a key longer than the stream. -/
def streamByte (bs : List Byte) (k : Nat) : Byte := bs.getD k 0#8

/-- The key of `keyBytes` bytes (R93). -/
def streamKey (keyBytes : Nat) (bs : List Byte) : BitVec 24 :=
  if keyBytes = 1 then (streamByte bs 0).setWidth 24
  else streamByte bs 0 ++ streamByte bs 1 ++ streamByte bs 2

/-- The row's mode is the code's, and the key under the row's mask is its pattern. -/
def OpcodeRow.fits (r : OpcodeRow) : Code → Bool
  | .lcw bs => r.mode == .lcw && streamKey r.keyBytes bs &&& r.mask == r.pattern
  | .xd bs => r.mode == .xd && streamKey r.keyBytes bs &&& r.mask == r.pattern
  | .ctrl x => r.mode == .ctrl && (x.extractLsb' 0 3).setWidth 24 &&& r.mask == r.pattern

/-- R93: "A command matches a row when `key & mask = match` and it matches no row listed in the row's `excludes`." -/
def OpcodeRow.selects (r : OpcodeRow) (c : Code) : Bool :=
  r.fits c && opcodeTable.all (fun r' => !(r.excludes.contains r'.name && r'.fits c))

/-- The mnemonics of the rows that match a code. -/
def tableReads (c : Code) : List Mnemonic :=
  (opcodeTable.filter (fun r => r.selects c)).map (fun r => r.name)

/-! ### The table's own words (for the host's probe; log 7) -/

/-- The bytes of a word of `nbits` bits as opcode_table.json numbers them: the first byte of the command is the most
significant (R93). -/
def tableBytes (nbits w : Nat) : List Byte :=
  (List.range ((nbits + 7) / 8)).map (fun k => BitVec.ofNat 8 (w >>> (8 * ((nbits + 7) / 8 - 1 - k))))

/-- The longest command has 16386 bytes (R80); a table word is followed by zero bytes up to there. -/
def tableStream (nbits w : Nat) : List Byte := tableBytes nbits w ++ List.replicate 16386 0#8

/-- Which mode a bare table word is read in. A row's bits do not carry its mode (R93 gives it in a column of its own), so the
probe has to choose: a word below 8 of at most one byte is CTRL.OP; a word of three bytes or more that begins with 0x00 or
0x80 is XD (the LCW commands that begin so have two bytes and one); any other is LCW (DESIGN CHOICE, log 7). -/
def tableMode (nbits w : Nat) : Mode :=
  if nbits ≤ 8 ∧ w < 8 then .ctrl
  else if 24 ≤ nbits ∧ (streamByte (tableBytes nbits w) 0 = 0x00#8 ∨ streamByte (tableBytes nbits w) 0 = 0x80#8) then .xd
  else .lcw

/-- A table word as code. -/
def tableCode (nbits w : Nat) : Code :=
  match tableMode nbits w with
  | .ctrl => .ctrl (BitVec.ofNat 32 w)
  | .xd => .xd (tableStream nbits w)
  | .lcw => .lcw (tableStream nbits w)

/-- The instruction the decoder reads from a word of the opcode table (log 7). -/
def decodeTableWord (nbits w : Nat) : Option Instr :=
  match decode (tableCode nbits w) with
  | .command i _ => some i
  | .inputOverrun => none

end Sys2Proof
end

