-- ==== Sys2Proof/Config.lean ====
section
/-!
DEFINITION. What the spec leaves to the implementation or calls unspecified: the physical memory sizes (00_scope.md R7,
decision D6) and the free values (70_reset_and_hazards.md R230, 10_state.md R38, 20_memory.md R62). A free value is a
constant with no body, so nothing can be proved of what it is.
-/

namespace Sys2Proof

/-- The three byte memories of 20_memory.md R60. -/
inductive Mem where
  /-- The compressed run, SRC_SIZE bytes. -/
  | src
  /-- The scratch buffer (LCW output, XD input), BUF_SIZE bytes. -/
  | scr
  /-- The frame buffer (XD destination), BUF_SIZE bytes. -/
  | frm
  deriving DecidableEq, Repr

/-- The OPEN parameters of the block (R7, D6, 93_implementation_defined.md U1). They are fixed for a machine: State carries
them and no step changes them. -/
structure Params where
  /-- SRC_SIZE: bytes of physical SRC memory. -/
  srcSize : Nat
  /-- BUF_SIZE: bytes of physical SCR memory and of physical FRM memory. -/
  bufSize : Nat
  deriving DecidableEq, Repr

/-- R7: "OPEN, ≥ 1" for both sizes. -/
abbrev Params.ok (p : Params) : Prop := 1 ≤ p.srcSize ∧ 1 ≤ p.bufSize

/-- How many bytes a memory has (R60). -/
def Params.size (p : Params) : Mem → Nat
  | .src => p.srcSize
  | .scr => p.bufSize
  | .frm => p.bufSize

/-- The sizes of `State.reset` (DESIGN CHOICE, log 2: the spec leaves them OPEN; no statement rests on these numbers). -/
def Config.defaultParams : Params := { srcSize := 65536, bufSize := 65536 }

/-- What byte `a` of memory `m` holds after the `boot`-th reset until something writes it: unspecified (R230, U2; log 3). -/
opaque Config.powerOnByte (boot : Nat) (m : Mem) (a : Nat) : Byte

/-- The value of the `n`-th host register read that R38 calls unspecified (U3; log 4). -/
opaque Config.hostReadWord (n : Nat) : Word

/-- The value of the `n`-th host memory read that R62 calls unspecified (U4; log 4). -/
opaque Config.hostReadByte (n : Nat) : Byte

end Sys2Proof
end

