-- ==== Sys2Proof/Machine/State.lean ====
section
/-!
DEFINITION. The state of the block (10_state.md, 20_memory.md R60), as plain data, and the state after reset
(70_reset_and_hazards.md R230). The register words that the host reads (STATUS, CAUSE, CTRL) are views of these fields
(Machine/Flags.lean): their reserved bits read 0 and are never stored (R22, R23, R25, R27; log 15).
-/

namespace Sys2Proof.Machine

/-- STATUS.STATE (R25). -/
inductive RunState where
  /-- 0: between reset and the first job. -/
  | idle
  /-- 1: a job runs. -/
  | running
  /-- 2: the job completed (R26). -/
  | done
  /-- 3: the job stopped on a fault (R26, R203). -/
  | fault
  deriving DecidableEq, Repr

/-- STATUS.PHASE (R25): the engine that is, or was last, active. -/
inductive Phase where
  /-- 0: the LCW engine. -/
  | lcw
  /-- 1: the XD engine. -/
  | xd
  deriving DecidableEq, Repr

/-- CAUSE[3:0], the fault causes of 60_exceptions.md R201 that have a name. The codes 6 to 15 are reserved and never
produced; no value of this type stands for them. -/
inductive Cause where
  /-- 0: no fault. -/
  | none
  /-- 1: a command or its fetch needs a byte at an input address not below INLEN. -/
  | inputOverrun
  /-- 2: an LCW back-reference source is not in [0, DP). -/
  | backrefRange
  /-- 3: DP + count > CAP. -/
  | capacity
  /-- 4: reserved; no encoding raises it (R88, U9). -/
  | illegalCommand
  /-- 5: a START with sizes beyond the physical memories, or a reserved CTRL.OP. -/
  | config
  deriving DecidableEq, Repr

/-- A byte memory as the bytes that something has written since reset: addresses strictly rising. An address not listed is
unwritten ("A model treats an unspecified memory byte as unwritten", R230); what such a byte reads as is in `State.peek`. -/
abbrev Memory := List Host.Cell

/-- The host's actions on the block (42_control.md R180): register accesses by byte offset in the 64-byte window, as whole
words (R22), and byte accesses of the three memories (R62). -/
inductive HostAction where
  | regWrite (offset : BitVec 6) (x : Word)
  | regRead (offset : BitVec 6)
  | memWrite (m : Mem) (a : Nat) (v : Byte)
  | memRead (m : Mem) (a : Nat)
  deriving DecidableEq, Repr

/-- One turn of the machine: who moves (R20, R231, R240; log 5). -/
inductive Turn where
  /-- The engine takes one step if a job runs (R191). -/
  | engine
  /-- The host acts (R180). -/
  | host (a : HostAction)
  /-- The platform asserts reset (R231). -/
  | reset
  deriving DecidableEq, Repr

/-- Everything the spec gives the block, and the model's own fields `boot`, `draws`, `hostData`, `turns`. -/
structure State where
  /-- SRC_SIZE and BUF_SIZE (R7): constant. -/
  params : Params
  /-- CTRL.REL, bit 8 of CTRL (R23, R24). -/
  rel : Bool
  /-- STATUS.STATE, bits 1:0 (R25). -/
  st : RunState
  /-- STATUS.PHASE, bit 2 (R25). -/
  phase : Phase
  /-- STATUS.FULL, bit 3 (R25). -/
  full : Bool
  /-- STATUS.JOB, bits 6:4 (R25). -/
  job : BitVec 3
  /-- CAUSE, bits 3:0 (R27). -/
  cause : Cause
  /-- CAP (R28). -/
  cap : Word
  /-- SRC_LEN (R29). -/
  srcLen : Word
  /-- SCR_LEN (R30). -/
  scrLen : Word
  /-- SP, the input cursor and program counter (R31). -/
  sp : Word
  /-- DP, the output cursor (R32). -/
  dp : Word
  /-- The SRC memory (R60). -/
  src : Memory
  /-- The SCR memory (R60). -/
  scr : Memory
  /-- The FRM memory (R60). -/
  frm : Memory
  /-- The model's own: the number of resets so far, which indexes the power-on draws (log 3). -/
  boot : Nat
  /-- The model's own: the number of free values host reads have taken (log 4). -/
  draws : Nat
  /-- The model's own: what the last host read returned (log 4). -/
  hostData : Word
  /-- The model's own: the coming turns; with none left the engine moves (log 5). -/
  turns : List Turn
  deriving DecidableEq, Repr

/-- Why the model stops where the spec's machine has no such event. The spec's own faults are states (R203), not these. -/
inductive Fault where
  /-- The engine would access an address beyond the physical memory. Raised by the LCW and XD commands' writes, by the CLEAR
  step and by the fetch, only in states that no run reaches: START checks the sizes (R65, R189). Safe (log 8). -/
  | outsideMemory
  deriving DecidableEq, Repr

/-- Why the model refuses a step. -/
inductive Refusal where
  /-- The instruction has no meaning in the model. No arm of `exec` answers this: every row is modelled. Safe. -/
  | notModelled (mnemonic : String)
  /-- The state holds the reserved CAUSE code 4, which 93_implementation_defined.md U9 says a model refuses. Raised by `step`;
  no run reaches such a state. Safe (log 9). -/
  | reservedCause
  deriving DecidableEq, Repr

/-- The state after reset of a block with the given physical sizes (R230, R39): every register and field is 0, and no byte of
SRC, SCR or FRM is written. `boot`, `draws`, `hostData`, `turns` are the model's own (DESIGN CHOICE, logs 3 to 5). -/
def State.resetWith (p : Params) : State where
  params := p
  rel := false
  st := .idle
  phase := .lcw
  full := false
  job := 0#3
  cause := .none
  cap := 0#32
  srcLen := 0#32
  scrLen := 0#32
  sp := 0#32
  dp := 0#32
  src := []
  scr := []
  frm := []
  boot := 0
  draws := 0
  hostData := 0#32
  turns := []

/-- The machine right after reset, with the default sizes (log 2). -/
def State.reset : State := State.resetWith Config.defaultParams

end Sys2Proof.Machine
end

