-- ==== Sys2Proof/Machine/Flags.lean ====
section
/-!
DEFINITION. The block has no condition codes (10_state.md R35). Its outcome bits are STATUS and CAUSE; this file gives the
codes of their fields and the register words the host reads (R23, R25, R27).
-/

namespace Sys2Proof.Machine

/-- STATUS[1:0] (R25). -/
def RunState.code : RunState → BitVec 2
  | .idle => 0#2
  | .running => 1#2
  | .done => 2#2
  | .fault => 3#2

/-- STATUS[2] (R25). -/
def Phase.code : Phase → BitVec 1
  | .lcw => 0#1
  | .xd => 1#1

/-- CAUSE[3:0] (R201). -/
def Cause.code : Cause → BitVec 4
  | .none => 0#4
  | .inputOverrun => 1#4
  | .backrefRange => 2#4
  | .capacity => 3#4
  | .illegalCommand => 4#4
  | .config => 5#4

/-- STATUS as the host reads it: STATE, PHASE, FULL, JOB, and bits 31:7 zero (R25). -/
def State.statusWord (s : State) : Word := 0#25 ++ s.job ++ BitVec.ofBool s.full ++ s.phase.code ++ s.st.code

/-- CAUSE as the host reads it: bits 31:4 read as 0 (R27). -/
def State.causeWord (s : State) : Word := 0#28 ++ s.cause.code

/-- CTRL as the host reads it: REL at bit 8; OP and the reserved bits read 0 (R23). -/
def State.ctrlWord (s : State) : Word := 0#23 ++ BitVec.ofBool s.rel ++ 0#8

/-- STATUS.JOB of the LCW job (R25). -/
abbrev jobLcw : BitVec 3 := 1#3
/-- STATUS.JOB of the XD job (R25). -/
abbrev jobXd : BitVec 3 := 2#3
/-- STATUS.JOB of the FRAME job (R25). -/
abbrev jobFrame : BitVec 3 := 3#3
/-- STATUS.JOB of the CLEAR job (R25). -/
abbrev jobClear : BitVec 3 := 4#3

end Sys2Proof.Machine
end

