-- ==== Sys2Proof/Machine/Ops.lean ====
section
/-!
DEFINITION. The named operations over memory and registers: byte memories (20_memory.md), fault entry (60_exceptions.md
R203), the end of a job or phase (42_control.md R187, R188; 40_lcw.md R113) and the start of one (R182, R189).
-/

namespace Sys2Proof.Machine

/-! ### One memory -/

/-- The byte written at `a`, if something has written one. -/
def Memory.lookup (a : Nat) : Memory → Option Byte
  | [] => none
  | (b, v) :: m => if a = b then some v else Memory.lookup a m

/-- `m` with byte `v` at address `a` (R11 MemWrite). -/
def Memory.write (a : Nat) (v : Byte) : Memory → Memory
  | [] => [(a, v)]
  | (b, w) :: m =>
    if a < b then (a, v) :: (b, w) :: m
    else if a = b then (a, v) :: m
    else (b, w) :: Memory.write a v m

/-- Every address is at least `lo` and below `size`, and addresses rise strictly. -/
def Memory.wfFrom (lo size : Nat) : Memory → Bool
  | [] => true
  | (a, _) :: m => decide (lo ≤ a) && decide (a < size) && Memory.wfFrom (a + 1) size m

/-- The canonical form of a memory of `size` bytes: strictly rising addresses, all inside the memory. An unlisted address is
unwritten, so no entry equals what an unlisted address holds. -/
def Memory.wf (size : Nat) (m : Memory) : Bool := Memory.wfFrom 0 size m

/-- The byte at `a`, where `draw` gives the value of an unwritten byte (R11 MemRead, R230). -/
def Memory.read (draw : Nat → Byte) (a : Nat) (m : Memory) : Byte := (Memory.lookup a m).getD (draw a)

/-- Write bytes at increasing addresses from `a` (R64). -/
def Memory.store : List Byte → Nat → Memory → Memory
  | [], _, m => m
  | v :: vs, a, m => Memory.store vs (a + 1) (m.write a v)

/-- XorAt over bytes at increasing addresses from `a` (41_xordelta.md R143). -/
def Memory.xorStore (draw : Nat → Byte) : List Byte → Nat → Memory → Memory
  | [], _, m => m
  | u :: us, a, m => Memory.xorStore draw us (a + 1) (m.write a (m.read draw a ^^^ u))

/-- CopyBack (40_lcw.md R102): `n` bytes one at a time, each read seeing the writes before it. -/
def Memory.copyBack (draw : Nat → Byte) : Nat → Nat → Nat → Memory → Memory
  | 0, _, _, m => m
  | n + 1, from_, to_, m => Memory.copyBack draw n (from_ + 1) (to_ + 1) (m.write to_ (m.read draw from_))

/-! ### The three memories of a state -/

/-- The memory of a name (R60). -/
def State.mem (s : State) : Mem → Memory
  | .src => s.src
  | .scr => s.scr
  | .frm => s.frm

/-- The state with another content of one memory. -/
def State.setMem (s : State) (m : Mem) (c : Memory) : State :=
  match m with
  | .src => { s with src := c }
  | .scr => { s with scr := c }
  | .frm => { s with frm := c }

/-- What an unwritten byte of memory `m` holds: a free value of this reset, the same at every read (R64, R230; log 3). -/
def State.draw (s : State) (m : Mem) : Nat → Byte := Config.powerOnByte s.boot m

/-- The byte at address `a` of memory `m` (R11 MemRead). -/
def State.peek (s : State) (m : Mem) (a : Nat) : Byte := (s.mem m).read (s.draw m) a

/-- The byte at address `a` of memory `m` becomes `v` (R11 MemWrite). -/
def State.poke (s : State) (m : Mem) (a : Nat) (v : Byte) : State := s.setMem m ((s.mem m).write a v)

/-- The memory that holds `bs` at addresses `a`, `a + 1`, … and nothing else. -/
def Memory.imageFrom : Nat → List Byte → Memory
  | _, [] => []
  | a, b :: bs => (a, b) :: Memory.imageFrom (a + 1) bs

/-- `bs` loaded at addresses 0, 1, … of an otherwise unwritten memory. -/
def Memory.image (bs : List Byte) : Memory := Memory.imageFrom 0 bs

/-! ### Cursors -/

/-- SP and DP advance together when a command completes (R31, R32). Sums are in ℕ and truncated only by the write (R10; log 17). -/
def State.advance (s : State) (len count : Nat) : State :=
  { s with sp := BitVec.ofNat 32 (s.sp.toNat + len), dp := BitVec.ofNat 32 (s.dp.toNat + count) }

/-- The input memory of the running phase: SRC for LCW, SCR for XD (R11 `IN`). -/
def Phase.input : Phase → Mem
  | .lcw => .src
  | .xd => .scr

/-- INLEN: SRC_LEN in the LCW phase, SCR_LEN in the XD phase (R34). SCR_LEN may exceed CAP (R189), and the XD phase then reads SCR beyond
CAP too, although the last sentence of R65 says that such bytes are never read (DEDUCED, log 21). -/
def State.inLen (s : State) : Nat :=
  match s.phase with
  | .lcw => s.srcLen.toNat
  | .xd => s.scrLen.toNat

/-! ### Fault entry and ends -/

/-- Taking a fault (R203): CAUSE and STATE change and nothing else does. There is no vector and no return (R206, R207). Nothing is
rolled back: what the earlier commands of the job wrote stands (R204), so after a fault of the XD phase FRM is partly patched and no longer
holds the previous frame (R208). -/
def State.raise (s : State) (f : Cause) : State := { s with cause := f, st := .fault }

/-- `finish(DONE)` (R187): only STATE changes. -/
def State.finish (s : State) : State := { s with st := .done }

/-- The FRAME phase transition (R188), in the step that ends the LCW phase. -/
def State.passToXd (s : State) : State := { s with phase := .xd, sp := 0#32, dp := 0#32 }

/-- LcwTerminate (R113): SCR_LEN and FULL are written; a FRAME job passes to the XD phase, any other job ends DONE. -/
def State.lcwTerminate (s : State) (full : Bool) : State :=
  let s' := { s with scrLen := s.dp, full := full }
  if s.job = jobFrame then s'.passToXd else s'.finish

/-! ### Starting a job -/

/-- The four jobs a CTRL write starts (R182). -/
inductive Op where
  | lcw | xd | frame | clear
  deriving DecidableEq, Repr

/-- `code(op)` (R182). -/
def Op.code : Op → BitVec 3
  | .lcw => jobLcw
  | .xd => jobXd
  | .frame => jobFrame
  | .clear => jobClear

/-- The phase a job starts in (R182). -/
def Op.phase : Op → Phase
  | .xd => .xd
  | .lcw | .frame | .clear => .lcw

/-- ConfigBad (R189). -/
def State.configBad (s : State) : Op → Bool
  | .lcw => decide (s.cap.toNat > s.params.bufSize) || decide (s.srcLen.toNat > s.params.srcSize)
  | .xd => decide (s.cap.toNat > s.params.bufSize) || decide (s.scrLen.toNat > s.params.bufSize)
  | .frame => decide (s.cap.toNat > s.params.bufSize) || decide (s.srcLen.toNat > s.params.srcSize)
  | .clear => decide (s.cap.toNat > s.params.bufSize)

/-- What every START and every reserved operation writes first (R182, R190). -/
def State.newJob (s : State) (job : BitVec 3) (phase : Phase) : State :=
  { s with job := job, phase := phase, full := false, cause := .none, sp := 0#32, dp := 0#32 }

/-- Start(op) (R182): a bad configuration faults CONFIG (R189), otherwise the job runs. -/
def State.start (s : State) (op : Op) : State :=
  let s' := s.newJob op.code op.phase
  if s.configBad op then s'.raise .config else { s' with st := .running }

/-- Reserved(k) (R190). -/
def State.reserved (s : State) (k : BitVec 3) : State := (s.newJob k .lcw).raise .config

/-- A CTRL write (R180): ignored while RUNNING (R40); otherwise REL is stored first, then the operation is performed. -/
def State.ctrlOperation (s : State) (rel : Bool) (perform : State → State) : State :=
  if s.st = .running then s else perform { s with rel := rel }

/-! ### Reset -/

/-- Reset of a machine that has run (R230, R231): the state of R230, whatever ran. The parameters are the machine's, the
memories' unwritten bytes get new draws, and the coming turns and the host's own read data stand (log 11). -/
def State.assertReset (s : State) : State :=
  { State.resetWith s.params with boot := s.boot + 1, draws := s.draws, hostData := s.hostData, turns := s.turns }

end Sys2Proof.Machine
end

