-- ==== Sys2Proof/Machine/Operands.lean ====
section
/-!
DEFINITION. Operand assembly (30_encoding.md R87) and the checks and effects the commands share (40_lcw.md R102 to R104,
41_xordelta.md R142, R143; 60_exceptions.md R204, R205). Every field is unsigned; a back-reference source is computed in ℤ.
-/

namespace Sys2Proof.Machine

/-- What a meaning answers. -/
abbrev Result := Host.Outcome State Fault Refusal

/-- The biased count of LCW.REL and LCW.ABS (R87). -/
def biasedCount {w : Nat} (c : BitVec w) : Nat := c.toNat + 3

/-- A source named by a backward distance: `dp - dist` in ℤ (R87). -/
def State.distSource (s : State) (dist : Nat) : Int := (s.dp.toNat : Int) - (dist : Int)

/-- The source of LCW.ABS and LCW.ABSL: `p` if CTRL.REL = 0, `dp - p` if CTRL.REL = 1 (R87, R24). -/
def State.absSource (s : State) (p : Half) : Int := if s.rel then s.distSource p.toNat else (p.toNat : Int)

/-- R103: the source is an earlier position of the output. -/
def State.backrefOk (s : State) (source : Int) : Bool := decide (0 ≤ source) && decide (source < (s.dp.toNat : Int))

/-- A write to `[dp, dp + count)` would leave the physical memory of BUF_SIZE bytes: never so in a reachable state (R65; log 8). -/
def State.outside (s : State) (count : Nat) : Bool := decide (0 < count) && decide (s.params.bufSize < s.dp.toNat + count)

/-- The checks of an LCW command in the order of R104 and R205, then `write`, its effect on SCR. `len` is the command's length,
`source` the back-reference source if it has one. The first failing check is raised and nothing is written (R204). -/
def State.lcwCommand (s : State) (len count : Nat) (source : Option Int) (write : Memory → Memory) : Result :=
  if s.srcLen.toNat < s.sp.toNat + len then .next (s.raise .inputOverrun)
  else if source.any (fun x => !s.backrefOk x) then .next (s.raise .backrefRange)
  else if s.cap.toNat < s.dp.toNat + count then .next (s.raise .capacity)
  else if s.outside count then .fault .outsideMemory
  else .next ({ s with scr := write s.scr }.advance len count)

/-- An LCW command that writes the bytes `bs` at DP (R106, R109). -/
def State.lcwEmit (s : State) (len : Nat) (bs : List Byte) : Result :=
  s.lcwCommand len bs.length none (fun m => m.store bs s.dp.toNat)

/-- An LCW back-reference command (R107, R108, R110). -/
def State.lcwCopy (s : State) (len count : Nat) (source : Int) : Result :=
  s.lcwCommand len count (some source) (fun m => m.copyBack (s.draw .scr) count source.toNat s.dp.toNat)

/-- An XD skip (R144, R148): DP moves if it stays within CAP (R142), FRM is not accessed. Its own bytes are there by the fetch
(R140), so it makes no `need` of its own. -/
def State.xdSkip (s : State) (len count : Nat) : Result :=
  if s.cap.toNat < s.dp.toNat + count then .next (s.raise .capacity)
  else .next (s.advance len count)

/-- An XD update (R145, R146, R149, R150): the checks in the order of R142 and R205, then the bytes `us` are XOR-ed into FRM from
DP on (R143). -/
def State.xdUpdate (s : State) (len : Nat) (us : List Byte) : Result :=
  if s.scrLen.toNat < s.sp.toNat + len then .next (s.raise .inputOverrun)
  else if s.cap.toNat < s.dp.toNat + us.length then .next (s.raise .capacity)
  else if s.outside us.length then .fault .outsideMemory
  else .next ({ s with frm := s.frm.xorStore (s.draw .frm) us s.dp.toNat }.advance len us.length)

end Sys2Proof.Machine
end

