-- ==== Sys2Proof/Machine/Ctrl.lean ====
section
/-!
DEFINITION. The meanings of the control operations (42_control.md R180 to R190): a host write of CTRL, ignored while RUNNING
(10_state.md R40), otherwise storing REL and performing OP. The engine's own CLEAR step is in Machine/Fetch.lean.
-/

namespace Sys2Proof.Machine

/-- CTRL.NOP (R181): nothing but REL. -/
def execCtrlNop (rel : Bool) (s : State) : Host.Outcome State Fault Refusal :=
  .next (s.ctrlOperation rel (fun s => s))

/-- CTRL.START_LCW (R183). -/
def execCtrlStartLcw (rel : Bool) (s : State) : Host.Outcome State Fault Refusal :=
  .next (s.ctrlOperation rel (fun s => s.start .lcw))

/-- CTRL.START_XD (R184). -/
def execCtrlStartXd (rel : Bool) (s : State) : Host.Outcome State Fault Refusal :=
  .next (s.ctrlOperation rel (fun s => s.start .xd))

/-- CTRL.START_FRAME (R185). -/
def execCtrlStartFrame (rel : Bool) (s : State) : Host.Outcome State Fault Refusal :=
  .next (s.ctrlOperation rel (fun s => s.start .frame))

/-- CTRL.CLEAR_FRM (R186): the job is started; its one engine step is `State.clearStep`. -/
def execCtrlClearFrm (rel : Bool) (s : State) : Host.Outcome State Fault Refusal :=
  .next (s.ctrlOperation rel (fun s => s.start .clear))

/-- CTRL.RESERVED (R190). -/
def execCtrlReserved (op : BitVec 3) (rel : Bool) (s : State) : Host.Outcome State Fault Refusal :=
  .next (s.ctrlOperation rel (fun s => s.reserved op))

end Sys2Proof.Machine
end

