-- ==== Sys2Proof/Machine/Lcw.lean ====
section
/-!
DEFINITION. The meanings of the LCW commands (40_lcw.md R105 to R110). Each is the body of the rule's pseudocode: the step
that fetched it has found the engine running in the LCW phase with DP ≠ CAP (R100; log 13).
-/

namespace Sys2Proof.Machine

/-- LCW.REL (R107). -/
def execLcwRel (c : BitVec 3) (d : BitVec 12) (s : State) : Host.Outcome State Fault Refusal :=
  s.lcwCopy 2 (biasedCount c) (s.distSource d.toNat)

/-- LCW.END (R105): it raises nothing; the `need(1)` of its fetch (R100) has been met. -/
def execLcwEnd (s : State) : Host.Outcome State Fault Refusal :=
  .next ((s.advance 1 0).lcwTerminate false)

/-- LCW.LIT (R106). -/
def execLcwLit (payload : List Byte) (s : State) : Host.Outcome State Fault Refusal :=
  s.lcwEmit (1 + payload.length) payload

/-- LCW.ABS (R108). -/
def execLcwAbs (c : BitVec 6) (p : Half) (s : State) : Host.Outcome State Fault Refusal :=
  s.lcwCopy 3 (biasedCount c) (s.absSource p)

/-- LCW.FILL (R109). -/
def execLcwFill (n : Half) (v : Byte) (s : State) : Host.Outcome State Fault Refusal :=
  s.lcwEmit 4 (List.replicate n.toNat v)

/-- LCW.ABSL (R110): the source is checked even when the count is 0. -/
def execLcwAbsl (n : Half) (p : Half) (s : State) : Host.Outcome State Fault Refusal :=
  s.lcwCopy 5 n.toNat (s.absSource p)

end Sys2Proof.Machine
end

