-- ==== Sys2Proof/Machine/Xd.lean ====
section
/-!
DEFINITION. The meanings of the XD commands (41_xordelta.md R144 to R150). Each is the body of the rule's pseudocode: the step
that fetched it has found the engine running in the XD phase (R140; log 13).
-/

namespace Sys2Proof.Machine

/-- XD.FILL (R146). -/
def execXdFill (n : Byte) (v : Byte) (s : State) : Host.Outcome State Fault Refusal :=
  s.xdUpdate 3 (List.replicate n.toNat v)

/-- XD.XOR (R145). -/
def execXdXor (payload : List Byte) (s : State) : Host.Outcome State Fault Refusal :=
  s.xdUpdate (1 + payload.length) payload

/-- XD.SKIP (R144). -/
def execXdSkip (n : BitVec 7) (s : State) : Host.Outcome State Fault Refusal :=
  s.xdSkip 1 n.toNat

/-- XD.END (R147): it raises nothing; the `need(3)` of its fetch (R140) has been met. FULL is not changed. -/
def execXdEnd (s : State) : Host.Outcome State Fault Refusal :=
  .next (s.advance 3 0).finish

/-- XD.SKIPL (R148). -/
def execXdSkipl (n : BitVec 15) (s : State) : Host.Outcome State Fault Refusal :=
  s.xdSkip 3 n.toNat

/-- XD.XORL (R149). -/
def execXdXorl (payload : List Byte) (s : State) : Host.Outcome State Fault Refusal :=
  s.xdUpdate (3 + payload.length) payload

/-- XD.FILLL (R150). -/
def execXdFilll (n : BitVec 14) (v : Byte) (s : State) : Host.Outcome State Fault Refusal :=
  s.xdUpdate 4 (List.replicate n.toNat v)

end Sys2Proof.Machine
end

