-- ==== Sys2Proof/Machine/Dispatch.lean ====
section
/-! DEFINITION. One arm per constructor of `Instr`, each a direct call of its meaning. -/

namespace Sys2Proof.Machine

def exec (i : Instr) (s : State) : Host.Outcome State Fault Refusal :=
  match i with
  | .lcwRel c d => Sys2Proof.Machine.execLcwRel c d s
  | .lcwEnd => Sys2Proof.Machine.execLcwEnd s
  | .lcwLit payload => Sys2Proof.Machine.execLcwLit payload s
  | .lcwAbs c p => Sys2Proof.Machine.execLcwAbs c p s
  | .lcwFill n v => Sys2Proof.Machine.execLcwFill n v s
  | .lcwAbsl n p => Sys2Proof.Machine.execLcwAbsl n p s
  | .xdFill n v => Sys2Proof.Machine.execXdFill n v s
  | .xdXor payload => Sys2Proof.Machine.execXdXor payload s
  | .xdSkip n => Sys2Proof.Machine.execXdSkip n s
  | .xdEnd => Sys2Proof.Machine.execXdEnd s
  | .xdSkipl n => Sys2Proof.Machine.execXdSkipl n s
  | .xdXorl payload => Sys2Proof.Machine.execXdXorl payload s
  | .xdFilll n v => Sys2Proof.Machine.execXdFilll n v s
  | .ctrlNop rel => Sys2Proof.Machine.execCtrlNop rel s
  | .ctrlStartLcw rel => Sys2Proof.Machine.execCtrlStartLcw rel s
  | .ctrlStartXd rel => Sys2Proof.Machine.execCtrlStartXd rel s
  | .ctrlStartFrame rel => Sys2Proof.Machine.execCtrlStartFrame rel s
  | .ctrlClearFrm rel => Sys2Proof.Machine.execCtrlClearFrm rel s
  | .ctrlReserved op rel => Sys2Proof.Machine.execCtrlReserved op rel s

end Sys2Proof.Machine
end

