-- ==== Sys2Proof/Machine/HostPort.lean ====
section
/-!
DEFINITION. What the host's accesses do: the register window (10_state.md R22, R38, R40) and the memory ports (20_memory.md
R62). Every access goes by STATE alone: once a job has ended, the host's accesses take effect and see all its writes, whether or not a read of
STATUS has shown the end, where R69 promises no ordering (DESIGN CHOICE, log 20). A write of CTRL is an instruction (R180) and is not
performed here: `State.hostAction` hands it to `exec`.
-/

namespace Sys2Proof.Machine

/-- The eight registers of R22. -/
inductive Reg where
  | ctrl | status | cause | cap | srcLen | scrLen | sp | dp
  deriving DecidableEq, Repr

/-- The register at a byte offset of the window: none at a reserved offset (0x20 to 0x3C) or at an offset that is not a
multiple of 4 (R22). -/
def regAt (offset : BitVec 6) : Option Reg :=
  if offset = 0x00#6 then some .ctrl
  else if offset = 0x04#6 then some .status
  else if offset = 0x08#6 then some .cause
  else if offset = 0x0C#6 then some .cap
  else if offset = 0x10#6 then some .srcLen
  else if offset = 0x14#6 then some .scrLen
  else if offset = 0x18#6 then some .sp
  else if offset = 0x1C#6 then some .dp
  else none

/-- The word a register holds (R22 to R32). -/
def State.regValue (s : State) : Reg → Word
  | .ctrl => s.ctrlWord
  | .status => s.statusWord
  | .cause => s.causeWord
  | .cap => s.cap
  | .srcLen => s.srcLen
  | .scrLen => s.scrLen
  | .sp => s.sp
  | .dp => s.dp

/-- A host write of a register other than CTRL (R22): CAP, SRC_LEN and SCR_LEN are stored, STATUS, CAUSE, SP and DP are
read-only and ignore it; so does every register while RUNNING (R40), and only then (log 20). -/
def State.writeReg (s : State) (r : Reg) (x : Word) : State :=
  if s.st = .running then s
  else
    match r with
    | .cap => { s with cap := x }
    | .srcLen => { s with srcLen := x }
    | .scrLen => { s with scrLen := x }
    | .ctrl | .status | .cause | .sp | .dp => s

/-- The host read answered `x`. -/
def State.answer (s : State) (x : Word) : State := { s with hostData := x }

/-- The host read answered the free value `x`; the next free value will be another draw (log 4). -/
def State.answerDraw (s : State) (x : Word) : State := { s with hostData := x, draws := s.draws + 1 }

/-- A host read of the register window (R22, R38): while RUNNING only STATUS answers its value, any other register a free
value. Reserved and misaligned offsets read 0, RUNNING or not (log 10). From the job's end on a register answers its value, shown
by STATUS or not (log 20). -/
def State.readReg (s : State) (offset : BitVec 6) : State :=
  match regAt offset with
  | none => s.answer 0#32
  | some r =>
    if s.st = .running ∧ r ≠ .status then s.answerDraw (Config.hostReadWord s.draws)
    else s.answer (s.regValue r)

/-- A host write of a memory byte (R62): ignored while RUNNING, and only then (log 20), and at or beyond the memory's size. -/
def State.hostPoke (s : State) (m : Mem) (a : Nat) (v : Byte) : State :=
  if s.st = .running ∨ s.params.size m ≤ a then s else s.poke m a v

/-- A host read of a memory byte (R62): a free value while RUNNING and at or beyond the memory's size. From the job's end on it sees
every engine write, shown by STATUS or not (log 20). -/
def State.hostPeek (s : State) (m : Mem) (a : Nat) : State :=
  if s.st = .running ∨ s.params.size m ≤ a then s.answerDraw ((Config.hostReadByte s.draws).setWidth 32)
  else s.answer ((s.peek m a).setWidth 32)

end Sys2Proof.Machine
end

