-- ==== Sys2Proof/Machine/Fetch.lean ====
section
/-!
DEFINITION. What the next turn runs: the instruction the engine fetches (40_lcw.md R100, 41_xordelta.md R140, 42_control.md
R191), the instruction a CTRL write is (R180), or an effect that is no instruction of the table (the end of an LCW phase by
a full buffer, a fetch that runs out of input, the CLEAR step, the host's other accesses, reset).
-/

namespace Sys2Proof.Machine

/-- What a turn does. -/
inductive Action where
  /-- Run an instruction of the table. -/
  | run (i : Instr)
  /-- An effect without an instruction. -/
  | effect (o : Host.Outcome State Fault Refusal)

/-- The most bytes a command of the phase has (R80). -/
def Phase.longest : Phase → Nat
  | .lcw => 64
  | .xd => 16386

/-- `n` bytes of memory `m` from address `a` on. -/
def State.peekRange (s : State) (m : Mem) (a n : Nat) : List Byte := (List.range n).map (fun k => s.peek m (a + k))

/-- The end of what the engine may fetch: INLEN, and the physical end if that is lower (never in a reachable state, R65). In the XD phase
that is SCR_LEN even where SCR_LEN exceeds CAP (DEDUCED, log 21). -/
def State.fetchEnd (s : State) : Nat := min s.inLen (s.params.size s.phase.input)

/-- The bytes at SP, as many as the longest command may have and the input still holds (R80, R100, R140). -/
def State.fetchBytes (s : State) : List Byte :=
  s.peekRange s.phase.input s.sp.toNat (min (s.fetchEnd - s.sp.toNat) s.phase.longest)

/-- The bytes at SP read in the table of the running phase (R80). -/
def State.fetchCode (s : State) : Code :=
  match s.phase with
  | .lcw => .lcw s.fetchBytes
  | .xd => .xd s.fetchBytes

/-- The fetch common to both engines: a command whose bytes are all there runs, and one whose bytes pass INLEN raises
INPUT_OVERRUN (R202). -/
def State.fetch (s : State) : Action :=
  match decode s.fetchCode with
  | .command i _ => .run i
  | .inputOverrun =>
    if s.params.size s.phase.input < s.inLen then .effect (.fault .outsideMemory)
    else .effect (.next (s.raise .inputOverrun))

/-- ClearStep (R186): FRM[0 .. CAP-1] becomes zero and the job is DONE. -/
def State.clearStep (s : State) : Host.Outcome State Fault Refusal :=
  if s.params.bufSize < s.cap.toNat then .fault .outsideMemory
  else .next { s with frm := s.frm.store (List.replicate s.cap.toNat 0x00#8) 0 }.finish

/-- LcwStep up to its dispatch (R100): the test for a full buffer comes before every fetch. -/
def State.lcwFetch (s : State) : Action :=
  if s.dp = s.cap then .effect (.next (s.lcwTerminate true)) else s.fetch

/-- EngineStep up to its dispatch (R191). The engine takes no step unless RUNNING (R217). A JOB that no start sets
runs as the pseudocode reads (log 12). -/
def State.engineAction (s : State) : Action :=
  if s.st ≠ .running then .effect (.next s)
  else if s.job = jobClear then .effect s.clearStep
  else
    match s.phase with
    | .lcw => s.lcwFetch
    | .xd => s.fetch

/-- The host's actions (R180): a write of CTRL is an instruction, the rest are effects. -/
def State.hostAction (s : State) : HostAction → Action
  | .regWrite offset x =>
    match regAt offset with
    | some .ctrl => .run (decodeCtrl x)
    | some r => .effect (.next (s.writeReg r x))
    | none => .effect (.next s)
  | .regRead offset => .effect (.next (s.readReg offset))
  | .memWrite m a v => .effect (.next (s.hostPoke m a v))
  | .memRead m a => .effect (.next (s.hostPeek m a))

/-- What a turn does (log 5). -/
def State.turnAction (s : State) : Turn → Action
  | .engine => s.engineAction
  | .host a => s.hostAction a
  | .reset => .effect (.next s.assertReset)

/-- The turn that comes next: the first of the list, the engine's when the list is empty (weak fairness, R240). -/
def State.nextTurn (s : State) : Turn := s.turns.headD .engine

/-- The state with that turn taken from the list. -/
def State.popTurn (s : State) : State := { s with turns := s.turns.tail }

/-- What the next turn does, in the state with the turn taken. A state that holds the reserved CAUSE code 4 is refused (U9;
log 9). -/
def State.nextAction (s : State) : Action :=
  if s.cause = .illegalCommand then .effect (.refused .reservedCause)
  else s.popTurn.turnAction s.nextTurn

end Sys2Proof.Machine
end

