-- ==== Sys2Proof/Machine/Probe.lean ====
section
/-!
DEFINITION. Placing one instruction where the next step runs it (log 6): the block loads no program itself, so this stands for
the host's part of 70_reset_and_hazards.md R232 (loading a stream, writing its length and CAP, starting the job), or for a
CTRL write that is the next turn.
-/

namespace Sys2Proof.Machine

/-- The largest CAP a START accepts (R28, R189). -/
def State.wholeBuffer (s : State) : Word := BitVec.ofNat 32 (min s.params.bufSize 0xFFFFFFFF)

/-- `bs` loaded as the LCW stream, with CAP the whole buffer, and the LCW job just started (R182, R183). -/
def State.withLcwStream (s : State) (bs : List Byte) : State :=
  { s.newJob jobLcw .lcw with
    st := .running, src := Memory.image bs, srcLen := BitVec.ofNat 32 bs.length,
    cap := s.wholeBuffer, turns := .engine :: s.turns }

/-- `bs` loaded as the patch, with CAP the whole buffer, and the XD job just started (R182, R184). -/
def State.withXdStream (s : State) (bs : List Byte) : State :=
  { s.newJob jobXd .xd with
    st := .running, scr := Memory.image bs, scrLen := BitVec.ofNat 32 bs.length,
    cap := s.wholeBuffer, turns := .engine :: s.turns }

/-- A host write of CTRL as the next turn (R180). -/
def State.withCtrlWrite (s : State) (x : Word) : State := { s with turns := .host (.regWrite 0x00#6 x) :: s.turns }

/-- The bytes of the command a code begins with; the whole stream if it holds none. -/
def commandBytes (c : Code) (bs : List Byte) : List Byte :=
  match decode c with
  | .command i _ => i.bytes
  | .inputOverrun => bs

/-- A word of the opcode table as the instruction of the next step. -/
def State.loadTableWord (s : State) (nbits w : Nat) : State :=
  match tableCode nbits w with
  | .lcw bs => s.withLcwStream (commandBytes (.lcw bs) bs)
  | .xd bs => s.withXdStream (commandBytes (.xd bs) bs)
  | .ctrl x => s.withCtrlWrite x

end Sys2Proof.Machine
end

