-- ==== Sys2Proof/Machine/Step.lean ====
section
/-!
DEFINITION. One step of the machine: the next turn is taken and what it does is done (42_control.md R180, R191). Where it is an
instruction of the table, that is `exec` of it at the state with the turn taken from the list. A turn has no
duration (log 14).
-/

namespace Sys2Proof.Machine

def step (s : State) : Host.Outcome State Fault Refusal :=
  match s.nextAction with
  | .run i => exec i s.popTurn
  | .effect o => o

/-- The state in which the very next step fetches and runs the instruction of a table word (log 6, log 7). -/
def State.withFetchWord (s : State) (nbits w : Nat) : State := s.loadTableWord nbits w

end Sys2Proof.Machine
end

