-- ==== Sys2Proof/Machine/Asm.lean ====
section
/-!
DEFINITION. The assembler of 30_encoding.md R91 and its pseudo-instructions R92, on operands that are already numbers: a line
is an instruction or a pseudo-instruction, and an operand out of its range is an assembly error (`none`). The text of a line is
read in Machine/AsmText.lean.
-/

namespace Sys2Proof.Machine

/-- A line of R91 or R92 with its operands as numbers. -/
inductive AsmLine where
  | lcwEnd
  | lcwLit (bs : List Nat)
  | lcwRel (n d : Nat)
  | lcwAbs (n p : Nat)
  | lcwFill (n v : Nat)
  | lcwAbsl (n p : Nat)
  | xdEnd
  | xdSkip (n : Nat)
  | xdXor (bs : List Nat)
  | xdFill (n v : Nat)
  | xdSkipl (n : Nat)
  | xdXorl (bs : List Nat)
  | xdFilll (n v : Nat)
  /-- LCW.LITS (R92). -/
  | lcwLits (bs : List Nat)
  /-- LCW.COPY: copy n bytes from distance d back (R92). -/
  | lcwCopy (n d : Nat)
  /-- LCW.RUN (R92). -/
  | lcwRun (n v : Nat)
  /-- XD.SKIPN (R92). -/
  | xdSkipn (n : Nat)
  /-- XD.XORN (R92). -/
  | xdXorn (bs : List Nat)
  /-- XD.FILLN (R92). -/
  | xdFilln (n v : Nat)
  deriving DecidableEq, Repr

/-- An operand in its range, or an assembly error (R91). -/
def inRange (lo hi n : Nat) : Option Nat := if lo ≤ n ∧ n ≤ hi then some n else none

/-- A byte operand, 0 to 255 (R91). -/
def byteOperand (n : Nat) : Option Byte := (inRange 0 255 n).map (BitVec.ofNat 8)

/-- The bytes of a literal form, as many as its range allows (R91). -/
def bytesOperand (lo hi : Nat) (bs : List Nat) : Option (List Byte) :=
  if lo ≤ bs.length ∧ bs.length ≤ hi then bs.mapM byteOperand else none

/-- Pieces of at most `k` bytes, in order; the fuel bounds their number. -/
def pieces (k : Nat) : Nat → List Byte → List (List Byte)
  | 0, _ => []
  | _ + 1, [] => []
  | fuel + 1, bs => bs.take k :: pieces k fuel (bs.drop k)

/-- LCW.LITS: LCW.LIT of the first min(n, 63) bytes, repeated on the rest until none remain (R92). -/
def expandLits (bs : List Byte) : List Instr := (pieces 63 bs.length bs).map .lcwLit

/-- LCW.RUN: LCW.FILL with min(n, 65535), repeated on the rest; a run of 0 is one LCW.FILL of 0 (R92; DEDUCED, log 19). -/
def expandRun (v : Byte) : Nat → Nat → List Instr
  | 0, n => [.lcwFill (BitVec.ofNat 16 n) v]
  | fuel + 1, n =>
    if n ≤ 65535 then [.lcwFill (BitVec.ofNat 16 n) v] else .lcwFill 65535#16 v :: expandRun v fuel (n - 65535)

/-- XD.SKIPN: XD.SKIP if n ≤ 127, else XD.SKIPL of min(n, 32767), repeated on the rest (R92). -/
def expandSkip : Nat → Nat → List Instr
  | 0, _ => []
  | fuel + 1, n =>
    if n = 0 then []
    else if n ≤ 127 then [.xdSkip (BitVec.ofNat 7 n)]
    else .xdSkipl (BitVec.ofNat 15 (min n 32767)) :: expandSkip fuel (n - min n 32767)

/-- XD.XORN: XD.XOR if n ≤ 127, else XD.XORL of the first min(n, 16383) bytes, repeated (R92). -/
def expandXor : Nat → List Byte → List Instr
  | 0, _ => []
  | fuel + 1, bs =>
    if bs.length = 0 then []
    else if bs.length ≤ 127 then [.xdXor bs]
    else .xdXorl (bs.take 16383) :: expandXor fuel (bs.drop 16383)

/-- XD.FILLN: XD.FILL if n ≤ 255, else XD.FILLL of min(n, 16383), repeated (R92). -/
def expandFill (v : Byte) : Nat → Nat → List Instr
  | 0, _ => []
  | fuel + 1, n =>
    if n = 0 then []
    else if n ≤ 255 then [.xdFill (BitVec.ofNat 8 n) v]
    else .xdFilll (BitVec.ofNat 14 (min n 16383)) v :: expandFill v fuel (n - min n 16383)

/-- LCW.COPY: the first alternative that fits, LCW.REL, LCW.ABS or LCW.ABSL (R92). `rel` is CTRL.REL, `pos` the output position. -/
def expandCopy (rel : Bool) (pos n d : Nat) : Option (List Instr) :=
  let q := if rel then d else pos - d
  if d < 1 ∨ pos < d then none
  else if 3 ≤ n ∧ n ≤ 10 ∧ d ≤ 4095 then some [.lcwRel (BitVec.ofNat 3 (n - 3)) (BitVec.ofNat 12 d)]
  else if 65535 < q then none
  else if 3 ≤ n ∧ n ≤ 64 then some [.lcwAbs (BitVec.ofNat 6 (n - 3)) (BitVec.ofNat 16 q)]
  else if n ≤ 65535 then some [.lcwAbsl (BitVec.ofNat 16 n) (BitVec.ofNat 16 q)]
  else none

/-- The instructions of a line at output position `pos` (R91, R92). -/
def assembleLine (rel : Bool) (pos : Nat) : AsmLine → Option (List Instr)
  | .lcwEnd => some [.lcwEnd]
  | .lcwLit bs => do return [.lcwLit (← bytesOperand 1 63 bs)]
  | .lcwRel n d => do return [.lcwRel (BitVec.ofNat 3 ((← inRange 3 10 n) - 3)) (BitVec.ofNat 12 (← inRange 0 4095 d))]
  | .lcwAbs n p => do return [.lcwAbs (BitVec.ofNat 6 ((← inRange 3 64 n) - 3)) (BitVec.ofNat 16 (← inRange 0 65535 p))]
  | .lcwFill n v => do return [.lcwFill (BitVec.ofNat 16 (← inRange 0 65535 n)) (← byteOperand v)]
  | .lcwAbsl n p => do return [.lcwAbsl (BitVec.ofNat 16 (← inRange 0 65535 n)) (BitVec.ofNat 16 (← inRange 0 65535 p))]
  | .xdEnd => some [.xdEnd]
  | .xdSkip n => do return [.xdSkip (BitVec.ofNat 7 (← inRange 1 127 n))]
  | .xdXor bs => do return [.xdXor (← bytesOperand 1 127 bs)]
  | .xdFill n v => do return [.xdFill (BitVec.ofNat 8 (← inRange 0 255 n)) (← byteOperand v)]
  | .xdSkipl n => do return [.xdSkipl (BitVec.ofNat 15 (← inRange 1 32767 n))]
  | .xdXorl bs => do return [.xdXorl (← bytesOperand 0 16383 bs)]
  | .xdFilll n v => do return [.xdFilll (BitVec.ofNat 14 (← inRange 0 16383 n)) (← byteOperand v)]
  | .lcwLits bs => do return expandLits (← bytesOperand 1 bs.length bs)
  | .lcwCopy n d => expandCopy rel pos n d
  | .lcwRun n v => do return expandRun (← byteOperand v) n n
  | .xdSkipn n => do return expandSkip n (← inRange 1 n n)
  | .xdXorn bs => do return expandXor bs.length (← bytesOperand 1 bs.length bs)
  | .xdFilln n v => do return expandFill (← byteOperand v) n (← inRange 1 n n)

/-- How many output bytes a command writes or passes ("every command has a fixed output count", R92). -/
def outputCount : Instr → Nat
  | .lcwRel c _ => c.toNat + 3
  | .lcwEnd => 0
  | .lcwLit payload => payload.length
  | .lcwAbs c _ => c.toNat + 3
  | .lcwFill n _ => n.toNat
  | .lcwAbsl n _ => n.toNat
  | .xdFill n _ => n.toNat
  | .xdXor payload => payload.length
  | .xdSkip n => n.toNat
  | .xdEnd => 0
  | .xdSkipl n => n.toNat
  | .xdXorl payload => payload.length
  | .xdFilll n _ => n.toNat
  | .ctrlNop _ | .ctrlStartLcw _ | .ctrlStartXd _ | .ctrlStartFrame _ | .ctrlClearFrm _ | .ctrlReserved _ _ => 0

/-- The instructions of a program, the output position tracked line by line (R92). -/
def assembleFrom (rel : Bool) : Nat → List AsmLine → Option (List Instr)
  | _, [] => some []
  | pos, line :: lines => do
    let front ← assembleLine rel pos line
    let rest ← assembleFrom rel (pos + (front.map outputCount).sum) lines
    return front ++ rest

/-- The byte stream of a list of commands. -/
def streamOf (is : List Instr) : List Byte := is.flatMap Instr.bytes

/-- The bytes a program assembles to (R91). -/
def assemble (rel : Bool) (lines : List AsmLine) : Option (List Byte) := (assembleFrom rel 0 lines).map streamOf

end Sys2Proof.Machine
end

