-- ==== Sys2Proof/Machine/HostScript.lean ====
section
/-!
DEFINITION. The host's side of decoding a stream, as turns (70_reset_and_hazards.md R232 steps 2 to 4). The runs are what the
host's own header software has cut out of the container (R233, R234: out of scope by 00_scope.md R6). A wait polls STATUS until the
job has ended; as a list of turns it is as many engine turns as the job can need (R241), then one read of STATUS (log 18).
After it comes what the host may do with a job's outputs (60_exceptions.md R208).
-/

namespace Sys2Proof.Machine

/-- Write bytes to a memory at addresses 0, 1, … (R62). -/
def loadTurns (m : Mem) (bs : List Byte) : List Turn :=
  (List.range bs.length).map (fun a => .host (.memWrite m a (bs.getD a 0#8)))

/-- Engine turns that let a job of at most `bound` steps end, then a poll of STATUS. -/
def waitTurns (bound : Nat) : List Turn := List.replicate bound .engine ++ [.host (.regRead 0x04#6)]

/-- Write CTRL with an OP and REL (R180). -/
def commandTurn (op : BitVec 3) (rel : Bool) : Turn := .host (.regWrite 0x00#6 (ctrlValue op rel))

/-- R232 steps 2 and 3: CAP is written, then FRM is cleared. -/
def openTurns (cap : Word) (rel : Bool) : List Turn :=
  [.host (.regWrite 0x0C#6 cap), commandTurn 4#3 rel] ++ waitTurns 1

/-- R232 step 4 for one run: load it, write SRC_LEN, START_FRAME, wait (the bound of R241 for FRAME), read the frame out. -/
def frameTurns (cap : Word) (rel : Bool) (run : List Byte) : List Turn :=
  loadTurns .src run ++ [.host (.regWrite 0x10#6 (BitVec.ofNat 32 run.length)), commandTurn 3#3 rel]
    ++ waitTurns (run.length + cap.toNat + 2)
    ++ (List.range cap.toNat).map (fun a => .host (.memRead .frm a))

/-- R232 steps 2 to 4: every run in index order. -/
def streamTurns (cap : Word) (rel : Bool) (runs : List (List Byte)) : List Turn :=
  openTurns cap rel ++ runs.flatMap (frameTurns cap rel)

/-! ### The host's duties on a fault (60_exceptions.md R208) -/

/-- The frame that the host may emit: FRM[0 .. CAP-1] of a job that ended DONE. After a fault the outputs are invalid and there is none
(R208). -/
def State.frameOut (s : State) : Option (List Byte) :=
  if s.st = .done then some (s.peekRange .frm 0 s.cap.toNat) else none

/-- What a host that wants to continue after a fault of the XD phase does first: it writes its own copy of the previous frame back to
FRM (R208). -/
def restoreTurns (previous : List Byte) : List Turn := loadTurns .frm previous

/-- The state after `n` steps, if each has a next state. -/
def playSteps : Nat → State → Option State
  | 0, s => some s
  | n + 1, s =>
    match step s with
    | .next t => playSteps n t
    | .fault _ => none
    | .refused _ => none

/-- The state after the turns `ts`. -/
def State.play (s : State) (ts : List Turn) : Option State := playSteps ts.length { s with turns := ts }

/-- R232 step 4: the frames of the runs in index order; one fault fails the decode as a whole and no frame is returned (R208). -/
def State.decodeRuns (cap : Word) (rel : Bool) : List (List Byte) → State → Option (List (List Byte))
  | [], _ => some []
  | run :: runs, s => do
    let t ← s.play (frameTurns cap rel run)
    let frame ← t.frameOut
    let frames ← State.decodeRuns cap rel runs t
    return frame :: frames

/-- R232 steps 2 to 4 from the state `s`: the frames of a stream, or nothing. -/
def State.decodeStream (s : State) (cap : Word) (rel : Bool) (runs : List (List Byte)) : Option (List (List Byte)) :=
  (s.play (openTurns cap rel)).bind (State.decodeRuns cap rel runs)

end Sys2Proof.Machine
end

