-- ==== Sys2Proof/Safety.lean ====
section
/-!
DEFINITION. What counts as a legal state, a safe step and a run, in the terms the statements use.
-/

namespace Sys2Proof.Machine

/-- The three memories are in canonical form and inside their physical sizes (20_memory.md R60). -/
abbrev State.memoriesWf (s : State) : Prop :=
  s.src.wf s.params.srcSize = true ∧ s.scr.wf s.params.bufSize = true ∧ s.frm.wf s.params.bufSize = true

/-- What STATE, JOB, PHASE, FULL and CAUSE say together (10_state.md R25, R27; 42_control.md R182, R187, R190). -/
abbrev State.statusOk (s : State) : Prop :=
  s.cause ≠ .illegalCommand
  ∧ (s.st = .fault ↔ s.cause ≠ .none)
  ∧ (s.st = .idle ↔ s.job = 0#3)
  ∧ (s.st = .idle → s.sp = 0#32 ∧ s.dp = 0#32)
  ∧ (s.phase = .xd → s.job = jobXd ∨ s.job = jobFrame)
  ∧ (s.full = true → (s.job = jobLcw ∧ s.st = .done) ∨ (s.job = jobFrame ∧ s.phase = .xd))

/-- What holds while a job runs: one of the four jobs in a phase of its own, R34's bounds on the cursors, and the windows of R65
inside the physical memories (the XD phase's input is SCR[0, SCR_LEN), also beyond CAP: log 21). -/
abbrev State.runningOk (s : State) : Prop :=
  s.st = .running →
    (s.job = jobLcw ∨ s.job = jobXd ∨ s.job = jobFrame ∨ s.job = jobClear)
    ∧ (s.job = jobXd → s.phase = .xd)
    ∧ s.cap.toNat ≤ s.params.bufSize
    ∧ s.dp.toNat ≤ s.cap.toNat
    ∧ s.sp.toNat ≤ s.inLen
    ∧ (s.job ≠ jobClear → s.inLen ≤ s.params.size s.phase.input)

/-- The invariant of the block: it holds after reset and every step keeps it. -/
abbrev State.Inv (s : State) : Prop := s.params.ok ∧ s.memoriesWf ∧ s.statusOk ∧ s.runningOk

/-- A step that neither stops with a fault of the model nor is refused. -/
abbrev Completes (s : State) : Prop := ∃ t, step s = .next t

/-- The state a step leads to, or the same state where it stops. -/
def stepOrStay (s : State) : State :=
  match step s with
  | .next t => t
  | .fault _ => s
  | .refused _ => s

/-- `n` steps. -/
def steps : Nat → State → State
  | 0, s => s
  | n + 1, s => steps n (stepOrStay s)

/-- No turn is waiting, so every step is the engine's (R191). -/
abbrev State.engineOnly (s : State) : Prop := s.turns = []

/-- What the block itself holds: the state without the model's own record of host reads and coming turns. -/
def State.block (s : State) : State := { s with draws := 0, hostData := 0#32, turns := [] }

/-- The job has ended (R26). -/
abbrev State.ended (s : State) : Prop := s.st = .done ∨ s.st = .fault

/-- A memory holds the bytes `bs` from address `a` on. -/
abbrev State.holds (s : State) (m : Mem) (a : Nat) (bs : List Byte) : Prop :=
  ∀ k, k < bs.length → s.peek m (a + k) = bs.getD k 0#8

/-- Every byte of every memory reads in `t` as in `s`, but for the `n` bytes of memory `m` from address `a` on. -/
def State.onlyWrote (s t : State) (m : Mem) (a n : Nat) : Prop :=
  ∀ m' b, ¬ (m' = m ∧ a ≤ b ∧ b < a + n) → t.peek m' b = s.peek m' b

/-- The engine moves next and a job of the two codecs runs (R191): its step is the LCW step or the XD step. JOB may be one
that no start sets (log 12). -/
abbrev State.codecTurn (s : State) : Prop :=
  s.cause ≠ .illegalCommand ∧ s.nextTurn = .engine ∧ s.st = .running ∧ s.job ≠ jobClear

/-- A job has just been started and only the engine moves from here (R182). -/
abbrev State.justStarted (s : State) (job : BitVec 3) : Prop :=
  s.Inv ∧ s.engineOnly ∧ s.st = .running ∧ s.job = job ∧ s.sp = 0#32 ∧ s.dp = 0#32
  ∧ s.phase = (if job = jobXd then Phase.xd else Phase.lcw)

/-- The states of a block reachable from reset, whatever the parameters and whatever turns come (R20, R240): before each step
the outside may queue any turns. -/
inductive Reachable : State → Prop where
  | reset (p : Params) (h : p.ok) : Reachable (State.resetWith p)
  | arrive (s : State) (ts : List Turn) : Reachable s → Reachable { s with turns := ts }
  | step (s t : State) : Reachable s → Machine.step s = .next t → Reachable t

end Sys2Proof.Machine
end

