-- ==== Sys2Proof/Certificates/Slice0/Obligations.lean ====
section
/-!
DEFINITION. The statements for the provers. Each docstring names the rule of spec/ it states. `exec` and `step` are quantified over
every state, every value of SRC_SIZE and BUF_SIZE and every value of the free values; nothing rests on the sizes or the model's
own fields that `State.reset` picks.
-/

open Sys2Proof Sys2Proof.Machine

/-! ### Reset and the invariant -/

/-- R39: after reset every register and every field is 0 and STATE is IDLE. -/
def Obligations.ResetClearsEveryRegister : Prop :=
  ∀ p : Params,
    let s := State.resetWith p
    (∀ r : Reg, s.regValue r = 0#32)
    ∧ s.st = .idle ∧ s.phase = .lcw ∧ s.full = false ∧ s.job = 0#3 ∧ s.cause = .none ∧ s.rel = false

/-- After reset the invariant holds and no byte of a memory is written: each reads as a draw (R7, R230), whatever the sizes. The invariant is
the model's, and so are `State.reset`'s own sizes (log 2) and the form of a draw (log 3). -/
def Obligations.ResetHoldsTheInvariant : Prop :=
  (∀ p : Params, p.ok →
    let s := State.resetWith p
    s.Inv ∧ ∀ m a, Memory.lookup a (s.mem m) = none ∧ s.peek m a = Config.powerOnByte s.boot m a)
  ∧ State.reset.Inv

/-- Every step of every state keeps the invariant (R25; the spec's inferences R34 and R65; U9). The invariant is the model's. -/
def Obligations.EveryStepKeepsTheInvariant : Prop :=
  ∀ s t : State, s.Inv → step s = .next t → t.Inv

/-- Progress: a state that satisfies the invariant, reachable or not, has a next step, and so has every reachable state: no fault of the
model (log 8), no refusal (log 9) (the spec's inference R65; U9, U20). The invariant is the model's. -/
def Obligations.ReachableStatesNeverStop : Prop :=
  (∀ s : State, s.Inv → Completes s) ∧ ∀ s : State, Reachable s → Completes s

/-- R34, an inference of the spec from R31, R32, R104, R142: after an engine step of a legal state SP and DP are within the input and the output, whether the job goes on or has ended. -/
def Obligations.EngineStepKeepsCursorsInBounds : Prop :=
  ∀ s t : State, s.Inv → s.st = .running → s.nextTurn = .engine → step s = .next t →
    t.sp.toNat ≤ t.inLen ∧ t.dp.toNat ≤ t.cap.toNat

/-! ### Encoding -/

/-- Decoding the encoding of a well-formed instruction gives it back, and leaves the stream after it (R82, R84, R85, R90). -/
def Obligations.DecodeReadsBackEveryEncoding : Prop :=
  ∀ (i : Instr) (rest : List Byte), i.wf = true →
    decode (i.encodeWith rest) = .command i (if i.mode = .ctrl then [] else rest)

/-- The decoder answers only well-formed instructions of the mode asked for, and the bytes it takes are the instruction's encoding; of
a CTRL value it keeps OP and REL and nothing else (R23, R88). -/
def Obligations.DecodeAnswersOnlyEncodings : Prop :=
  (∀ bs i rest, decode (.lcw bs) = .command i rest → i.wf = true ∧ i.mode = .lcw ∧ bs = i.bytes ++ rest)
  ∧ (∀ bs i rest, decode (.xd bs) = .command i rest → i.wf = true ∧ i.mode = .xd ∧ bs = i.bytes ++ rest)
  ∧ (∀ x i rest, decode (.ctrl x) = .command i rest →
      i.wf = true ∧ i.mode = .ctrl ∧ rest = [] ∧ i.ctrlWord = x &&& 0x107#32)

/-- R93: exactly one row of the opcode table matches what decodes, and it is the decoded instruction's row. -/
def Obligations.DecodedInstructionHasTheOneMatchingRow : Prop :=
  ∀ c i rest, decode c = .command i rest → tableReads c = [i.mnemonic]

/-- R88: no encoding is illegal; a stream with the bytes of the longest command (R80) always decodes, and every CTRL value does. -/
def Obligations.EveryLongEnoughStreamDecodes : Prop :=
  (∀ bs : List Byte, 64 ≤ bs.length → ∃ i rest, decode (.lcw bs) = .command i rest)
  ∧ (∀ bs : List Byte, 16386 ≤ bs.length → ∃ i rest, decode (.xd bs) = .command i rest)
  ∧ (∀ x : Word, ∃ i rest, decode (.ctrl x) = .command i rest)

/-- R83, R86, inferences of the spec from R82, R84, R85: how many input bytes each command takes. -/
def Obligations.CommandsTakeTheirLengths : Prop :=
  (∀ bs i rest, decode (.lcw bs) = .command i rest →
    match i with
    | .lcwRel _ _ => bs.length = 2 + rest.length
    | .lcwEnd => bs.length = 1 + rest.length
    | .lcwLit payload => bs.length = 1 + payload.length + rest.length ∧ 2 ≤ 1 + payload.length ∧ 1 + payload.length ≤ 64
    | .lcwAbs _ _ => bs.length = 3 + rest.length
    | .lcwFill _ _ => bs.length = 4 + rest.length
    | .lcwAbsl _ _ => bs.length = 5 + rest.length
    | _ => False)
  ∧ (∀ bs i rest, decode (.xd bs) = .command i rest →
    match i with
    | .xdFill _ _ => bs.length = 3 + rest.length
    | .xdXor payload => bs.length = 1 + payload.length + rest.length ∧ 2 ≤ 1 + payload.length ∧ 1 + payload.length ≤ 128
    | .xdSkip _ => bs.length = 1 + rest.length
    | .xdEnd => bs.length = 3 + rest.length
    | .xdSkipl _ => bs.length = 3 + rest.length
    | .xdXorl payload => bs.length = 3 + payload.length + rest.length ∧ 3 + payload.length ≤ 16386
    | .xdFilll _ _ => bs.length = 4 + rest.length
    | _ => False)

/-- Words written out from the tables of R82, R84, R85 and R90 decode to the instructions they stand for. -/
def Obligations.SampleEncodingsDecode : Prop :=
  decode (.lcw [0x7A#8, 0x34#8, 0xEE#8]) = .command (.lcwRel 7#3 0xA34#12) [0xEE#8]
  ∧ decode (.lcw [0x82#8, 0x01#8, 0x02#8, 0x80#8]) = .command (.lcwLit [0x01#8, 0x02#8]) [0x80#8]
  ∧ decode (.lcw [0xFF#8, 0x01#8, 0x02#8, 0x03#8, 0x04#8]) = .command (.lcwAbsl 0x0201#16 0x0403#16) []
  ∧ decode (.xd [0x80#8, 0x2C#8, 0x01#8]) = .command (.xdSkipl 300#15) []
  ∧ decode (.xd [0x80#8, 0x2C#8, 0xC1#8, 0x01#8]) = .command (.xdFilll 300#14 1#8) []
  ∧ decode (.ctrl 0x103#32) = .command (.ctrlStartFrame true) []

/-- R81: which LCW command each of the 256 command bytes selects, and a literal's count. -/
def Obligations.LcwCommandByteSelectsTheCommand : Prop :=
  ∀ (b : Byte) (bs : List Byte) (i : Instr) (rest : List Byte), decode (.lcw (b :: bs)) = .command i rest →
    (i.mnemonic =
      if b.toNat ≤ 0x7F then .lcwRel
      else if b.toNat = 0x80 then .lcwEnd
      else if b.toNat ≤ 0xBF then .lcwLit
      else if b.toNat ≤ 0xFD then .lcwAbs
      else if b.toNat = 0xFE then .lcwFill
      else .lcwAbsl)
    ∧ ∀ payload, i = .lcwLit payload → payload.length = b.toNat - 0x80

/-- R84, R85: which XD command each command byte, and after 0x80 each 16-bit word, selects, and the counts. -/
def Obligations.XdCommandByteAndWordSelectTheCommand : Prop :=
  (∀ (b : Byte) (bs : List Byte) (i : Instr) (rest : List Byte), b.toNat ≠ 0x80 → decode (.xd (b :: bs)) = .command i rest →
    (b.toNat = 0 → ∃ n v : Byte, i = .xdFill n v ∧ bs = n :: v :: rest)
    ∧ (1 ≤ b.toNat ∧ b.toNat ≤ 0x7F → ∃ payload, i = .xdXor payload ∧ payload.length = b.toNat)
    ∧ (0x81 ≤ b.toNat → ∃ n : BitVec 7, i = .xdSkip n ∧ n.toNat = b.toNat - 0x80))
  ∧ (∀ (lo hi : Byte) (bs : List Byte) (i : Instr) (rest : List Byte), decode (.xd (0x80#8 :: lo :: hi :: bs)) = .command i rest →
    let w := lo.toNat + 256 * hi.toNat
    (w = 0 → i = .xdEnd)
    ∧ (1 ≤ w ∧ w ≤ 0x7FFF → ∃ n : BitVec 15, i = .xdSkipl n ∧ n.toNat = w)
    ∧ (0x8000 ≤ w ∧ w ≤ 0xBFFF → ∃ payload, i = .xdXorl payload ∧ payload.length = w - 0x8000)
    ∧ (0xC000 ≤ w → ∃ (n : BitVec 14) (v : Byte), i = .xdFilll n v ∧ n.toNat = w - 0xC000))

/-- R61, R82, R84, R85, R87: the fields of every fixed-length command that has one, as numbers of its bytes. -/
def Obligations.OperandFieldsAreTheBytesNumbers : Prop :=
  (∀ (b0 b1 : Byte) (rest : List Byte), b0.toNat < 0x80 → ∃ (c : BitVec 3) (d : BitVec 12),
    decode (.lcw (b0 :: b1 :: rest)) = .command (.lcwRel c d) rest
    ∧ c.toNat = b0.toNat / 16 ∧ d.toNat = 256 * (b0.toNat % 16) + b1.toNat)
  ∧ (∀ (b0 lo hi : Byte) (rest : List Byte), 0xC0 ≤ b0.toNat → b0.toNat ≤ 0xFD → ∃ (c : BitVec 6) (p : Half),
    decode (.lcw (b0 :: lo :: hi :: rest)) = .command (.lcwAbs c p) rest
    ∧ c.toNat = b0.toNat - 0xC0 ∧ p.toNat = lo.toNat + 256 * hi.toNat)
  ∧ (∀ (lo hi v : Byte) (rest : List Byte), ∃ n : Half,
    decode (.lcw (0xFE#8 :: lo :: hi :: v :: rest)) = .command (.lcwFill n v) rest ∧ n.toNat = lo.toNat + 256 * hi.toNat)
  ∧ (∀ (lo hi lo' hi' : Byte) (rest : List Byte), ∃ n p : Half,
    decode (.lcw (0xFF#8 :: lo :: hi :: lo' :: hi' :: rest)) = .command (.lcwAbsl n p) rest
    ∧ n.toNat = lo.toNat + 256 * hi.toNat ∧ p.toNat = lo'.toNat + 256 * hi'.toNat)
  ∧ (∀ (b0 : Byte) (rest : List Byte), 0x81 ≤ b0.toNat → ∃ n : BitVec 7,
    decode (.xd (b0 :: rest)) = .command (.xdSkip n) rest ∧ n.toNat = b0.toNat - 0x80)
  ∧ (∀ (n v : Byte) (rest : List Byte), decode (.xd (0x00#8 :: n :: v :: rest)) = .command (.xdFill n v) rest)
  ∧ (∀ (lo hi : Byte) (rest : List Byte), 1 ≤ lo.toNat + 256 * hi.toNat → lo.toNat + 256 * hi.toNat ≤ 0x7FFF → ∃ n : BitVec 15,
    decode (.xd (0x80#8 :: lo :: hi :: rest)) = .command (.xdSkipl n) rest ∧ n.toNat = lo.toNat + 256 * hi.toNat)
  ∧ (∀ (lo hi v : Byte) (rest : List Byte), 0xC000 ≤ lo.toNat + 256 * hi.toNat → ∃ n : BitVec 14,
    decode (.xd (0x80#8 :: lo :: hi :: v :: rest)) = .command (.xdFilll n v) rest
    ∧ n.toNat = lo.toNat + 256 * hi.toNat - 0xC000)

/-! ### The step -/

/-- A step of a running codec runs the instruction at SP (R100, R140, R191), in the state with the turn taken from the list. -/
def Obligations.StepRunsTheFetchedCommand : Prop :=
  ∀ (s : State) (i : Instr) (rest : List Byte), s.codecTurn → (s.phase = .lcw → s.dp ≠ s.cap) →
    decode s.fetchCode = .command i rest → step s = exec i s.popTurn

/-- A host write of CTRL is the control operation its value encodes (R90, R180). -/
def Obligations.StepRunsTheControlWrite : Prop :=
  ∀ (s : State) (x : Word) (ts : List Turn), s.cause ≠ .illegalCommand → s.turns = .host (.regWrite 0x00#6 x) :: ts →
    step s = exec (decodeCtrl x) { s with turns := ts }

/-- Where the bytes of a well-formed command of the running phase stand at SP, inside the input, the step runs that command (R80,
R100, R140). In the XD phase the input is SCR[0, SCR_LEN), also beyond CAP (log 21). -/
def Obligations.CommandAtTheInputCursorRuns : Prop :=
  ∀ (s : State) (i : Instr), s.codecTurn → (s.phase = .lcw → s.dp ≠ s.cap) → i.wf = true →
    i.mode = (match s.phase with | .lcw => Mode.lcw | .xd => Mode.xd) →
    s.sp.toNat + i.length ≤ s.inLen → s.inLen ≤ s.params.size s.phase.input →
    s.holds s.phase.input s.sp.toNat i.bytes →
    step s = exec i s.popTurn

/-- R100, R113, R188: with the output exactly filled the LCW phase ends FULL without reading input; a FRAME job passes to XD, an LCW job
is DONE. For a JOB that no start sets with this phase (0, XD, 5 to 7) DONE is the model's reading of the pseudocode (log 12). -/
def Obligations.FullBufferEndsTheLcwPhase : Prop :=
  ∀ s : State, s.codecTurn → s.phase = .lcw → s.dp = s.cap →
    step s = .next
      (if s.job = jobFrame then
        { s with turns := s.turns.tail, scrLen := s.dp, full := true, phase := .xd, sp := 0#32, dp := 0#32 }
      else { s with turns := s.turns.tail, scrLen := s.dp, full := true, st := .done })

/-- R100, R140, R203, and R202, an inference of the spec: input that ends inside a command, or before one, raises INPUT_OVERRUN and
changes nothing but CAUSE and STATE. In the XD phase the input ends at SCR_LEN, also beyond CAP (log 21). -/
def Obligations.TruncatedCommandRaisesInputOverrun : Prop :=
  ∀ (s : State) (i : Instr) (k : Nat), s.codecTurn → (s.phase = .lcw → s.dp ≠ s.cap) → i.wf = true →
    i.mode = (match s.phase with | .lcw => Mode.lcw | .xd => Mode.xd) →
    k < i.length → s.inLen = s.sp.toNat + k → s.inLen ≤ s.params.size s.phase.input →
    s.holds s.phase.input s.sp.toNat (i.bytes.take k) →
    step s = .next { s with turns := s.turns.tail, cause := .inputOverrun, st := .fault }

/-- R186: the CLEAR job's one step zeroes FRM[0 .. CAP-1], leaves every other byte, and is DONE. -/
def Obligations.ClearStepZeroesTheFrame : Prop :=
  ∀ s : State, s.cause ≠ .illegalCommand → s.nextTurn = .engine → s.st = .running → s.job = jobClear →
    s.cap.toNat ≤ s.params.bufSize →
    ∃ t, step s = .next t
      ∧ (∀ a, a < s.cap.toNat → t.peek .frm a = 0x00#8)
      ∧ s.onlyWrote t .frm 0 s.cap.toNat
      ∧ t = { s with frm := t.frm, st := .done, turns := s.turns.tail }

/-- R217, R231: unless RUNNING the engine's turn changes nothing. -/
def Obligations.EngineRestsUnlessRunning : Prop :=
  ∀ s : State, s.cause ≠ .illegalCommand → s.nextTurn = .engine → s.st ≠ .running →
    step s = .next { s with turns := s.turns.tail }

/-! ### LCW commands -/

/-- R106: LCW.LIT copies its payload to SCR at DP and advances both cursors. -/
def Obligations.LcwLitCopiesItsPayload : Prop :=
  ∀ (payload : List Byte) (s : State),
    s.sp.toNat + 1 + payload.length ≤ s.srcLen.toNat → s.dp.toNat + payload.length ≤ s.cap.toNat →
    s.cap.toNat ≤ s.params.bufSize →
    ∃ t, exec (.lcwLit payload) s = .next t
      ∧ t.sp.toNat = s.sp.toNat + 1 + payload.length ∧ t.dp.toNat = s.dp.toNat + payload.length
      ∧ t.holds .scr s.dp.toNat payload
      ∧ s.onlyWrote t .scr s.dp.toNat payload.length
      ∧ t = { s with sp := t.sp, dp := t.dp, scr := t.scr }

/-- R102, R107: LCW.REL copies c + 3 bytes from distance d back; an overlapping copy repeats the d bytes before DP as a pattern. -/
def Obligations.LcwRelRepeatsTheDistanceBack : Prop :=
  ∀ (c : BitVec 3) (d : BitVec 12) (s : State),
    s.sp.toNat + 2 ≤ s.srcLen.toNat → 1 ≤ d.toNat → d.toNat ≤ s.dp.toNat → s.dp.toNat + (c.toNat + 3) ≤ s.cap.toNat →
    s.cap.toNat ≤ s.params.bufSize →
    ∃ t, exec (.lcwRel c d) s = .next t
      ∧ t.sp.toNat = s.sp.toNat + 2 ∧ t.dp.toNat = s.dp.toNat + (c.toNat + 3)
      ∧ (∀ i, i < c.toNat + 3 → t.peek .scr (s.dp.toNat + i) = s.peek .scr (s.dp.toNat - d.toNat + i % d.toNat))
      ∧ s.onlyWrote t .scr s.dp.toNat (c.toNat + 3)
      ∧ t = { s with sp := t.sp, dp := t.dp, scr := t.scr }

/-- R102, R108: LCW.ABS copies c + 3 bytes from `q`, which is p with REL = 0 and p back from DP with REL = 1. -/
def Obligations.LcwAbsCopiesFromItsSource : Prop :=
  ∀ (c : BitVec 6) (p : Half) (q : Nat) (s : State),
    (if s.rel then q + p.toNat = s.dp.toNat else q = p.toNat) → q < s.dp.toNat →
    s.sp.toNat + 3 ≤ s.srcLen.toNat → s.dp.toNat + (c.toNat + 3) ≤ s.cap.toNat → s.cap.toNat ≤ s.params.bufSize →
    ∃ t, exec (.lcwAbs c p) s = .next t
      ∧ t.sp.toNat = s.sp.toNat + 3 ∧ t.dp.toNat = s.dp.toNat + (c.toNat + 3)
      ∧ (∀ i, i < c.toNat + 3 → t.peek .scr (s.dp.toNat + i) = s.peek .scr (q + i % (s.dp.toNat - q)))
      ∧ s.onlyWrote t .scr s.dp.toNat (c.toNat + 3)
      ∧ t = { s with sp := t.sp, dp := t.dp, scr := t.scr }

/-- R109: LCW.FILL writes v at n addresses from DP; n = 0 writes nothing. -/
def Obligations.LcwFillWritesARun : Prop :=
  ∀ (n : Half) (v : Byte) (s : State),
    s.sp.toNat + 4 ≤ s.srcLen.toNat → s.dp.toNat + n.toNat ≤ s.cap.toNat → s.cap.toNat ≤ s.params.bufSize →
    ∃ t, exec (.lcwFill n v) s = .next t
      ∧ t.sp.toNat = s.sp.toNat + 4 ∧ t.dp.toNat = s.dp.toNat + n.toNat
      ∧ (∀ i, i < n.toNat → t.peek .scr (s.dp.toNat + i) = v)
      ∧ s.onlyWrote t .scr s.dp.toNat n.toNat
      ∧ t = { s with sp := t.sp, dp := t.dp, scr := t.scr }

/-- R102, R110: LCW.ABSL copies n bytes from `q` as LCW.ABS does; n = 0 copies nothing. -/
def Obligations.LcwAbslCopiesFromItsSource : Prop :=
  ∀ (n p : Half) (q : Nat) (s : State),
    (if s.rel then q + p.toNat = s.dp.toNat else q = p.toNat) → q < s.dp.toNat →
    s.sp.toNat + 5 ≤ s.srcLen.toNat → s.dp.toNat + n.toNat ≤ s.cap.toNat → s.cap.toNat ≤ s.params.bufSize →
    ∃ t, exec (.lcwAbsl n p) s = .next t
      ∧ t.sp.toNat = s.sp.toNat + 5 ∧ t.dp.toNat = s.dp.toNat + n.toNat
      ∧ (∀ i, i < n.toNat → t.peek .scr (s.dp.toNat + i) = s.peek .scr (q + i % (s.dp.toNat - q)))
      ∧ s.onlyWrote t .scr s.dp.toNat n.toNat
      ∧ t = { s with sp := t.sp, dp := t.dp, scr := t.scr }

/-- R105, R113, R188: LCW.END ends the phase with SCR_LEN = DP and FULL = 0; a FRAME job passes to XD, an LCW job is DONE.
For any other JOB, which no start sets with this phase, DONE is the model's reading of the pseudocode (log 12); `exec` tests neither
STATE nor PHASE (log 13). -/
def Obligations.LcwEndTerminatesThePhase : Prop :=
  ∀ s : State,
    exec .lcwEnd s = .next
      (if s.job = jobFrame then { s with scrLen := s.dp, full := false, phase := .xd, sp := 0#32, dp := 0#32 }
      else { s with sp := s.sp + 1#32, scrLen := s.dp, full := false, st := .done })

/-- R103, R104, R106 to R110, R205: the LCW commands' checks and their order, each with the state its fault leaves (R203). -/
def Obligations.LcwCommandsRaiseInOrder : Prop :=
  ∀ (i : Instr) (s : State), i.mode = .lcw → i ≠ .lcwEnd →
    let badSource : Prop :=
      match i with
      | .lcwRel _ d => d.toNat = 0 ∨ s.dp.toNat < d.toNat
      | .lcwAbs _ p | .lcwAbsl _ p => if s.rel then p.toNat = 0 ∨ s.dp.toNat < p.toNat else s.dp.toNat ≤ p.toNat
      | _ => False
    (s.srcLen.toNat < s.sp.toNat + i.length → exec i s = .next { s with cause := .inputOverrun, st := .fault })
    ∧ (s.sp.toNat + i.length ≤ s.srcLen.toNat → badSource → exec i s = .next { s with cause := .backrefRange, st := .fault })
    ∧ (s.sp.toNat + i.length ≤ s.srcLen.toNat → ¬ badSource → s.cap.toNat < s.dp.toNat + outputCount i →
        exec i s = .next { s with cause := .capacity, st := .fault })

/-- R101, an inference of the spec from R100 to R113: all that an LCW step can change. -/
def Obligations.LcwStepFrame : Prop :=
  ∀ s t : State, s.Inv → s.codecTurn → s.phase = .lcw → step s = .next t →
    { t with sp := s.sp, dp := s.dp, scr := s.scr, st := s.st, phase := s.phase, full := s.full, cause := s.cause,
             scrLen := s.scrLen, turns := s.turns } = s
    ∧ t.turns = s.turns.tail
    ∧ s.onlyWrote t .scr s.dp.toNat (t.dp.toNat - s.dp.toNat)
    ∧ (t.scrLen ≠ s.scrLen → t.st = .done ∨ t.phase = .xd)

/-! ### XD commands -/

/-- R144, R148: the skips move DP and leave every byte of every memory. -/
def Obligations.XdSkipsMoveTheOutputCursor : Prop :=
  (∀ (n : BitVec 7) (s : State), s.sp.toNat + 1 ≤ s.scrLen.toNat → s.dp.toNat + n.toNat ≤ s.cap.toNat →
    ∃ t, exec (.xdSkip n) s = .next t ∧ t.sp.toNat = s.sp.toNat + 1 ∧ t.dp.toNat = s.dp.toNat + n.toNat
      ∧ (∀ m a, t.peek m a = s.peek m a) ∧ t = { s with sp := t.sp, dp := t.dp })
  ∧ (∀ (n : BitVec 15) (s : State), s.sp.toNat + 3 ≤ s.scrLen.toNat → s.dp.toNat + n.toNat ≤ s.cap.toNat →
    ∃ t, exec (.xdSkipl n) s = .next t ∧ t.sp.toNat = s.sp.toNat + 3 ∧ t.dp.toNat = s.dp.toNat + n.toNat
      ∧ (∀ m a, t.peek m a = s.peek m a) ∧ t = { s with sp := t.sp, dp := t.dp })

/-- R143, R145, R149: XD.XOR and XD.XORL XOR their payload into FRM from DP on. -/
def Obligations.XdXorsUpdateTheFrame : Prop :=
  ∀ (i : Instr) (head : Nat) (payload : List Byte) (s : State),
    (i = .xdXor payload ∧ head = 1) ∨ (i = .xdXorl payload ∧ head = 3) →
    s.sp.toNat + head + payload.length ≤ s.scrLen.toNat → s.dp.toNat + payload.length ≤ s.cap.toNat →
    s.cap.toNat ≤ s.params.bufSize →
    ∃ t, exec i s = .next t
      ∧ t.sp.toNat = s.sp.toNat + head + payload.length ∧ t.dp.toNat = s.dp.toNat + payload.length
      ∧ (∀ k, k < payload.length →
          t.peek .frm (s.dp.toNat + k) = s.peek .frm (s.dp.toNat + k) ^^^ payload.getD k 0x00#8)
      ∧ s.onlyWrote t .frm s.dp.toNat payload.length
      ∧ t = { s with sp := t.sp, dp := t.dp, frm := t.frm }

/-- R143, R146, R150: XD.FILL and XD.FILLL XOR one value into n bytes of FRM from DP on; n = 0 changes no byte. -/
def Obligations.XdFillsUpdateTheFrame : Prop :=
  ∀ (i : Instr) (len n : Nat) (v : Byte) (s : State),
    (len = 3 ∧ ∃ c : Byte, i = .xdFill c v ∧ c.toNat = n) ∨ (len = 4 ∧ ∃ c : BitVec 14, i = .xdFilll c v ∧ c.toNat = n) →
    s.sp.toNat + len ≤ s.scrLen.toNat → s.dp.toNat + n ≤ s.cap.toNat → s.cap.toNat ≤ s.params.bufSize →
    ∃ t, exec i s = .next t
      ∧ t.sp.toNat = s.sp.toNat + len ∧ t.dp.toNat = s.dp.toNat + n
      ∧ (∀ k, k < n → t.peek .frm (s.dp.toNat + k) = s.peek .frm (s.dp.toNat + k) ^^^ v)
      ∧ s.onlyWrote t .frm s.dp.toNat n
      ∧ t = { s with sp := t.sp, dp := t.dp, frm := t.frm }

/-- R147, R187: XD.END is DONE past its three bytes; FULL, DP and every memory stand. -/
def Obligations.XdEndFinishesTheJob : Prop :=
  ∀ s : State, exec .xdEnd s = .next { s with sp := s.sp + 3#32, st := .done }

/-- R142, R144 to R150, R205: the XD commands' checks and their order, each with the state its fault leaves (R203). -/
def Obligations.XdCommandsRaiseInOrder : Prop :=
  ∀ (i : Instr) (s : State), i.mode = .xd → i ≠ .xdEnd →
    let updates : Prop := match i with | .xdSkip _ | .xdSkipl _ => False | _ => True
    (updates → s.scrLen.toNat < s.sp.toNat + i.length → exec i s = .next { s with cause := .inputOverrun, st := .fault })
    ∧ (s.sp.toNat + i.length ≤ s.scrLen.toNat → s.cap.toNat < s.dp.toNat + outputCount i →
        exec i s = .next { s with cause := .capacity, st := .fault })

/-- R141, an inference of the spec from R140 to R150: all that an XD step can change. -/
def Obligations.XdStepFrame : Prop :=
  ∀ s t : State, s.Inv → s.codecTurn → s.phase = .xd → step s = .next t →
    { t with sp := s.sp, dp := s.dp, frm := s.frm, st := s.st, cause := s.cause, turns := s.turns } = s
    ∧ t.turns = s.turns.tail
    ∧ s.onlyWrote t .frm s.dp.toNat (t.dp.toNat - s.dp.toNat)

/-! ### Faults -/

/-- R203, R204: an engine step that faults changes CAUSE and STATE and nothing else, and the engine takes no further step. That the cause is
one of the three a command can raise is R205 with R202, an inference of the spec. -/
def Obligations.FaultingStepWritesNothing : Prop :=
  ∀ s t : State, s.cause ≠ .illegalCommand → s.nextTurn = .engine → s.st = .running → step s = .next t → t.st = .fault →
    t = { s with turns := s.turns.tail, cause := t.cause, st := .fault }
    ∧ (t.cause = .inputOverrun ∨ t.cause = .backrefRange ∨ t.cause = .capacity)
    ∧ (t.nextTurn = .engine → step t = .next { t with turns := t.turns.tail })

/-- R88, and R202, an inference of the spec: which commands raise which causes. -/
def Obligations.CommandsRaiseOnlyTheirCauses : Prop :=
  ∀ (i : Instr) (s t : State), i.mode ≠ .ctrl → s.cause = .none → exec i s = .next t →
    t.cause = .none
    ∨ (t.cause = .inputOverrun ∧ match i with | .lcwEnd | .xdEnd | .xdSkip _ | .xdSkipl _ => False | _ => True)
    ∨ (t.cause = .backrefRange ∧ match i with | .lcwRel _ _ | .lcwAbs _ _ | .lcwAbsl _ _ => True | _ => False)
    ∨ (t.cause = .capacity ∧ match i with | .lcwEnd | .xdEnd => False | _ => True)

/-- R207: STATE = FAULT holds until the host starts a job (which clears CAUSE, SP and DP) or reset is asserted. -/
def Obligations.FaultHoldsUntilAJobStarts : Prop :=
  ∀ s t : State, s.st = .fault → step s = .next t →
    t.st = .fault
    ∨ s.nextTurn = .reset
    ∨ (∃ x : Word, s.nextTurn = .host (.regWrite 0x00#6 x) ∧ 1 ≤ (x.extractLsb' 0 3).toNat ∧ (x.extractLsb' 0 3).toNat ≤ 4
        ∧ t.st = .running ∧ t.cause = .none ∧ t.sp = 0#32 ∧ t.dp = 0#32)

/-! ### Control operations -/

/-- R181: CTRL.NOP writes REL and nothing else. -/
def Obligations.NopWritesOnlyRel : Prop :=
  ∀ (rel : Bool) (s : State), s.st ≠ .running → exec (.ctrlNop rel) s = .next { s with rel := rel }

/-- R182 to R186: with sizes that fit, each start stores REL, clears the last job's outcome and runs. -/
def Obligations.StartsRunTheirJobs : Prop :=
  ∀ (rel : Bool) (s : State), s.st ≠ .running → s.cap.toNat ≤ s.params.bufSize →
    (s.srcLen.toNat ≤ s.params.srcSize →
      exec (.ctrlStartLcw rel) s = .next { s with
        rel := rel, job := 1#3, phase := .lcw, full := false, cause := .none, sp := 0#32, dp := 0#32, st := .running })
    ∧ (s.scrLen.toNat ≤ s.params.bufSize →
      exec (.ctrlStartXd rel) s = .next { s with
        rel := rel, job := 2#3, phase := .xd, full := false, cause := .none, sp := 0#32, dp := 0#32, st := .running })
    ∧ (s.srcLen.toNat ≤ s.params.srcSize →
      exec (.ctrlStartFrame rel) s = .next { s with
        rel := rel, job := 3#3, phase := .lcw, full := false, cause := .none, sp := 0#32, dp := 0#32, st := .running })
    ∧ exec (.ctrlClearFrm rel) s = .next { s with
        rel := rel, job := 4#3, phase := .lcw, full := false, cause := .none, sp := 0#32, dp := 0#32, st := .running }

/-- R189: with sizes beyond the physical memories each start faults CONFIG with SP = DP = 0 and no memory byte changed. -/
def Obligations.StartsFaultOnBadConfigurations : Prop :=
  ∀ (rel : Bool) (s : State), s.st ≠ .running →
    (s.params.bufSize < s.cap.toNat ∨ s.params.srcSize < s.srcLen.toNat →
      exec (.ctrlStartLcw rel) s = .next { s with
        rel := rel, job := 1#3, phase := .lcw, full := false, cause := .config, sp := 0#32, dp := 0#32, st := .fault })
    ∧ (s.params.bufSize < s.cap.toNat ∨ s.params.bufSize < s.scrLen.toNat →
      exec (.ctrlStartXd rel) s = .next { s with
        rel := rel, job := 2#3, phase := .xd, full := false, cause := .config, sp := 0#32, dp := 0#32, st := .fault })
    ∧ (s.params.bufSize < s.cap.toNat ∨ s.params.srcSize < s.srcLen.toNat →
      exec (.ctrlStartFrame rel) s = .next { s with
        rel := rel, job := 3#3, phase := .lcw, full := false, cause := .config, sp := 0#32, dp := 0#32, st := .fault })
    ∧ (s.params.bufSize < s.cap.toNat →
      exec (.ctrlClearFrm rel) s = .next { s with
        rel := rel, job := 4#3, phase := .lcw, full := false, cause := .config, sp := 0#32, dp := 0#32, st := .fault })

/-- R190: a reserved operation faults CONFIG and records its OP; OP 7 leaves STATUS = 0x73 and CAUSE = 5. -/
def Obligations.ReservedOperationsFaultConfig : Prop :=
  (∀ (k : BitVec 3) (rel : Bool) (s : State), s.st ≠ .running →
    exec (.ctrlReserved k rel) s = .next { s with
      rel := rel, job := k, phase := .lcw, full := false, cause := .config, sp := 0#32, dp := 0#32, st := .fault })
  ∧ (∀ (rel : Bool) (s t : State), s.st ≠ .running → exec (.ctrlReserved 7#3 rel) s = .next t →
      t.statusWord = 0x73#32 ∧ t.causeWord = 5#32)

/-- R40, R180: a CTRL write while RUNNING is ignored entirely. -/
def Obligations.ControlOperationsAreIgnoredWhileRunning : Prop :=
  ∀ (i : Instr) (s : State), i.mode = .ctrl → s.st = .running → exec i s = .next s

/-! ### The host's ports, reset, and what changes what -/

/-- R38, R40, R62: while a job runs a host action changes nothing of the block. -/
def Obligations.HostActionsWhileRunningChangeNothing : Prop :=
  ∀ (s : State) (a : HostAction), s.cause ≠ .illegalCommand → s.st = .running → s.nextTurn = .host a →
    ∃ t, step s = .next t ∧ t = { s with turns := s.turns.tail, hostData := t.hostData, draws := t.draws }

/-- R62: a host memory write stores one byte below the memory's size and is ignored beyond it, while no job runs, shown by
STATUS or not (log 20). -/
def Obligations.HostMemoryWriteStoresOneByte : Prop :=
  ∀ (s : State) (m : Mem) (a : Nat) (v : Byte), s.cause ≠ .illegalCommand → s.st ≠ .running →
    s.nextTurn = .host (.memWrite m a v) →
    ∃ t, step s = .next t
      ∧ (∀ m' b, t.peek m' b = if m' = m ∧ b = a ∧ a < s.params.size m then v else s.peek m' b)
      ∧ { t with src := s.src, scr := s.scr, frm := s.frm } = { s with turns := s.turns.tail }

/-- R62: a host memory read answers the byte below the memory's size while no job runs and an unspecified byte otherwise, and changes
nothing of the block. That a job's writes are seen before STATUS has shown its end is log 20. -/
def Obligations.HostMemoryReadAnswersTheByte : Prop :=
  ∀ (s : State) (m : Mem) (a : Nat), s.cause ≠ .illegalCommand → s.nextTurn = .host (.memRead m a) →
    ∃ t, step s = .next t ∧ t = { s with turns := s.turns.tail, hostData := t.hostData, draws := t.draws }
      ∧ (s.st ≠ .running → a < s.params.size m → t.hostData.toNat = (s.peek m a).toNat)

/-- R25, R38: STATUS as a read at offset 0x04 answers it, running or not, field by field. -/
def Obligations.StatusReadsItsFields : Prop :=
  ∀ s : State, s.cause ≠ .illegalCommand → s.nextTurn = .host (.regRead 0x04#6) →
    ∃ t, step s = .next t ∧ t = { s with turns := s.turns.tail, hostData := t.hostData }
      ∧ (t.hostData.toNat % 4 = match s.st with | .idle => 0 | .running => 1 | .done => 2 | .fault => 3)
      ∧ (t.hostData.toNat / 4 % 2 = match s.phase with | .lcw => 0 | .xd => 1)
      ∧ (t.hostData.toNat / 8 % 2 = if s.full then 1 else 0)
      ∧ t.hostData.toNat / 16 = s.job.toNat

/-- R22, R23, R27, R38: what a read of each offset of the window answers while no job runs; reserved and misaligned offsets answer 0.
That the values are seen before STATUS has shown the job's end is log 20. -/
def Obligations.RegisterWindowReads : Prop :=
  ∀ (s : State) (offset : BitVec 6), s.cause ≠ .illegalCommand → s.st ≠ .running → s.nextTurn = .host (.regRead offset) →
    ∃ t, step s = .next t ∧ t = { s with turns := s.turns.tail, hostData := t.hostData }
      ∧ (offset.toNat = 0x00 → t.hostData.toNat = if s.rel then 0x100 else 0)
      ∧ (offset.toNat = 0x08 → t.hostData.toNat
          = match s.cause with
            | .none => 0 | .inputOverrun => 1 | .backrefRange => 2 | .capacity => 3 | .illegalCommand => 4 | .config => 5)
      ∧ (offset.toNat = 0x0C → t.hostData = s.cap)
      ∧ (offset.toNat = 0x10 → t.hostData = s.srcLen)
      ∧ (offset.toNat = 0x14 → t.hostData = s.scrLen)
      ∧ (offset.toNat = 0x18 → t.hostData = s.sp)
      ∧ (offset.toNat = 0x1C → t.hostData = s.dp)
      ∧ (0x20 ≤ offset.toNat ∨ offset.toNat % 4 ≠ 0 → t.hostData = 0#32)

/-- R22, R28 to R30: a write of CAP, SRC_LEN or SCR_LEN stores it while no job runs; a write at any other offset but CTRL's is
ignored. That it is stored before STATUS has shown the job's end is log 20. -/
def Obligations.RegisterWindowWrites : Prop :=
  ∀ (s : State) (offset : BitVec 6) (x : Word), s.cause ≠ .illegalCommand → s.st ≠ .running → offset.toNat ≠ 0x00 →
    s.nextTurn = .host (.regWrite offset x) →
    step s = .next
      (if offset.toNat = 0x0C then { s with turns := s.turns.tail, cap := x }
      else if offset.toNat = 0x10 then { s with turns := s.turns.tail, srcLen := x }
      else if offset.toNat = 0x14 then { s with turns := s.turns.tail, scrLen := x }
      else { s with turns := s.turns.tail })

/-- R230, R231: reset abandons whatever runs; every register is 0 and no memory byte is written any more. -/
def Obligations.ResetAbandonsTheJob : Prop :=
  ∀ s : State, s.cause ≠ .illegalCommand → s.nextTurn = .reset →
    ∃ t, step s = .next t ∧ t.turns = s.turns.tail ∧ t.params = s.params ∧ t.st = .idle
      ∧ (∀ r : Reg, t.regValue r = 0#32)
      ∧ (∀ m a, Memory.lookup a (t.mem m) = none)

/-- R60, R62, R186, and R192, an inference of the spec: what changes SRC, SCR and FRM. The engine never writes SRC. -/
def Obligations.MemoriesChangeOnlyByTheirWriters : Prop :=
  ∀ s t : State, step s = .next t →
    (t.src = s.src ∨ s.nextTurn = .reset ∨ (s.st ≠ .running ∧ ∃ a v, s.nextTurn = .host (.memWrite .src a v)))
    ∧ (t.scr = s.scr ∨ s.nextTurn = .reset ∨ (s.st ≠ .running ∧ ∃ a v, s.nextTurn = .host (.memWrite .scr a v))
        ∨ (s.codecTurn ∧ s.phase = .lcw))
    ∧ (t.frm = s.frm ∨ s.nextTurn = .reset ∨ (s.st ≠ .running ∧ ∃ a v, s.nextTurn = .host (.memWrite .frm a v))
        ∨ (s.codecTurn ∧ s.phase = .xd)
        ∨ (s.nextTurn = .engine ∧ s.st = .running ∧ s.job = jobClear))

/-- R22, R23, R28 to R30, R40: CAP, SRC_LEN and REL change only by a host write while no job runs, or by reset; SCR_LEN also by the end
of an LCW phase; the sizes never. -/
def Obligations.HostRegistersChangeOnlyByTheHost : Prop :=
  ∀ s t : State, step s = .next t →
    (t.cap = s.cap ∨ s.nextTurn = .reset ∨ (s.st ≠ .running ∧ s.nextTurn = .host (.regWrite 0x0C#6 t.cap)))
    ∧ (t.srcLen = s.srcLen ∨ s.nextTurn = .reset ∨ (s.st ≠ .running ∧ s.nextTurn = .host (.regWrite 0x10#6 t.srcLen)))
    ∧ (t.rel = s.rel ∨ s.nextTurn = .reset
        ∨ (s.st ≠ .running ∧ ∃ x : Word, s.nextTurn = .host (.regWrite 0x00#6 x) ∧ t.rel = x.getLsbD 8))
    ∧ (t.scrLen = s.scrLen ∨ s.nextTurn = .reset ∨ (s.st ≠ .running ∧ s.nextTurn = .host (.regWrite 0x14#6 t.scrLen))
        ∨ (s.codecTurn ∧ s.phase = .lcw ∧ t.scrLen = s.dp))
    ∧ t.params = s.params

/-! ### Whole jobs -/

/-- R62, R40, R240, and R242, an inference of the spec from R191: what a job does to the block does not depend on what the host does while it runs: whatever host turns come
between the engine's turns of a running job, the block after them is what the engine's turns alone make it. -/
def Obligations.HostTurnsDoNotDisturbARunningJob : Prop :=
  ∀ (s : State) (ts : List Turn), s.Inv → (∀ turn ∈ ts, turn ≠ .reset) →
    let k := (ts.filter (fun turn => decide (turn = .engine))).length
    (steps k { s with turns := [] }).st = .running →
    (steps (ts.length + 1) { s with turns := ts ++ [.engine] }).block = (steps (k + 1) { s with turns := [] }).block

/-- R111, R151, R241, inferences of the spec: every job ends, within the rule's bound of engine steps. -/
def Obligations.EveryJobEndsWithinItsBound : Prop :=
  (∀ s : State, s.justStarted jobLcw → ∃ n, n ≤ s.srcLen.toNat + 1 ∧ (steps n s).ended)
  ∧ (∀ s : State, s.justStarted jobXd → ∃ n, n ≤ s.scrLen.toNat + 1 ∧ (steps n s).ended)
  ∧ (∀ s : State, s.justStarted jobFrame → ∃ n, n ≤ s.srcLen.toNat + s.cap.toNat + 2 ∧ (steps n s).ended)
  ∧ (∀ s : State, s.justStarted jobClear → (steps 1 s).ended)

/-- R112, an inference of the spec from R102 to R110: an LCW job reads no SCR byte it has not written: from two states that differ in SCR alone it goes the same way and leaves the
same result. -/
def Obligations.LcwResultIgnoresWhatScrHeld : Prop :=
  ∀ (s s' : State) (n : Nat), s.justStarted jobLcw → s' = { s with scr := s'.scr } →
    steps n s' = { steps n s with scr := (steps n s').scr }
    ∧ ∀ a, a < (steps n s).dp.toNat → (steps n s').peek .scr a = (steps n s).peek .scr a

/-- R114, an inference of the spec from R100, R105, R106: literal pieces of 1 to 63 bytes, with LCW.END or without it when they fill the buffer, decode to their bytes. -/
def Obligations.LiteralStreamsRoundTrip : Prop :=
  ∀ (pieces : List (List Byte)) (withEnd : Bool) (s : State), s.justStarted jobLcw →
    (∀ p ∈ pieces, 1 ≤ p.length ∧ p.length ≤ 63) → pieces.flatten.length ≤ s.cap.toNat →
    (withEnd = false → pieces.flatten.length = s.cap.toNat) →
    let stream := streamOf (pieces.map Instr.lcwLit ++ if withEnd then [.lcwEnd] else [])
    s.srcLen.toNat = stream.length → s.holds .src 0 stream →
    ∃ n, (steps n s).st = .done ∧ (steps n s).scrLen.toNat = pieces.flatten.length
      ∧ (steps n s).holds .scr 0 pieces.flatten

/-- R153, an inference of the spec: the patch "skip K, XOR the next byte with V, end" changes byte K of the frame and no other. The patch may
be longer than CAP (log 21). -/
def Obligations.SkipThenXorPatchChangesOneByte : Prop :=
  ∀ (K : Nat) (V : Byte) (s : State), s.justStarted jobXd → K < s.cap.toNat →
    let stream := streamOf (expandSkip K K ++ [.xdXor [V], .xdEnd])
    s.scrLen.toNat = stream.length → s.holds .scr 0 stream →
    ∃ n, (steps n s).st = .done
      ∧ ∀ a, (steps n s).peek .frm a = if a = K then s.peek .frm K ^^^ V else s.peek .frm a

/-- R154, an inference of the spec: applying the same patch twice leaves every byte of the frame as it was, when both jobs end DONE. -/
def Obligations.PatchAppliedTwiceRestoresTheFrame : Prop :=
  ∀ (s t : State) (n m : Nat) (rel : Bool), s.justStarted jobXd → (steps n s).st = .done →
    exec (.ctrlStartXd rel) (steps n s) = .next t → (steps m t).st = .done →
    ∀ a, (steps m t).peek .frm a = s.peek .frm a

/-- R193, an inference of the spec from R183 to R188: a FRAME job is an LCW job followed by an XD job: it faults where the LCW job faults, and otherwise ends as the XD job on the LCW
result ends, with the same memories. -/
def Obligations.FrameIsLcwThenXd : Prop :=
  ∀ (s f : State) (rel : Bool) (n : Nat), s.Inv → s.engineOnly → s.st ≠ .running →
    exec (.ctrlStartFrame rel) s = .next f → (steps n f).ended →
    ∃ l k, exec (.ctrlStartLcw rel) s = .next l ∧ (steps k l).ended
      ∧ (((steps k l).st = .fault ∧ (steps n f).st = .fault ∧ (steps n f).cause = (steps k l).cause
            ∧ (steps n f).scr = (steps k l).scr ∧ (steps n f).frm = s.frm)
        ∨ ((steps k l).st = .done ∧ ∃ x j, exec (.ctrlStartXd rel) (steps k l) = .next x ∧ (steps j x).ended
            ∧ (steps n f).st = (steps j x).st ∧ (steps n f).cause = (steps j x).cause
            ∧ (steps n f).scr = (steps j x).scr ∧ (steps n f).frm = (steps j x).frm
            ∧ (steps n f).scrLen = (steps j x).scrLen ∧ (steps n f).sp = (steps j x).sp ∧ (steps n f).dp = (steps j x).dp))

/-- R92: each pseudo-instruction expands to well-formed commands of its own kinds that together cover its operands; LCW.COPY expands to the
first alternative that fits, and to none when none fits. That LCW.RUN of 0 is one LCW.FILL of 0 is log 19. -/
def Obligations.PseudoInstructionsCoverTheirOperands : Prop :=
  (∀ bs : List Byte, ∃ ps : List (List Byte), expandLits bs = ps.map Instr.lcwLit ∧ ps.flatten = bs ∧ ∀ i ∈ expandLits bs, i.wf = true)
  ∧ (∀ (v : Byte) (n : Nat), ((expandRun v n n).map outputCount).sum = n ∧ ∀ i ∈ expandRun v n n, i.wf = true ∧ ∃ c, i = .lcwFill c v)
  ∧ (∀ n : Nat, ((expandSkip n n).map outputCount).sum = n
      ∧ ∀ i ∈ expandSkip n n, i.wf = true ∧ ((∃ c, i = .xdSkip c) ∨ ∃ c, i = .xdSkipl c))
  ∧ (∀ (v : Byte) (n : Nat), ((expandFill v n n).map outputCount).sum = n
      ∧ ∀ i ∈ expandFill v n n, i.wf = true ∧ ((∃ c, i = .xdFill c v) ∨ ∃ c, i = .xdFilll c v))
  ∧ (∀ bs : List Byte,
      (expandXor bs.length bs).flatMap (fun i => match i with | .xdXor p => p | .xdXorl p => p | _ => []) = bs
      ∧ ∀ i ∈ expandXor bs.length bs, i.wf = true ∧ ((∃ p, i = .xdXor p) ∨ ∃ p, i = .xdXorl p))
  ∧ (∀ (rel : Bool) (pos n d : Nat),
      let q := if rel then d else pos - d
      let short := 3 ≤ n ∧ n ≤ 10 ∧ d ≤ 4095
      (¬ (1 ≤ d ∧ d ≤ pos) → expandCopy rel pos n d = none)
      ∧ (1 ≤ d ∧ d ≤ pos → short → ∃ (c : BitVec 3) (d' : BitVec 12),
          expandCopy rel pos n d = some [.lcwRel c d'] ∧ c.toNat + 3 = n ∧ d'.toNat = d)
      ∧ (1 ≤ d ∧ d ≤ pos → ¬ short → q ≤ 65535 → 3 ≤ n ∧ n ≤ 64 → ∃ (c : BitVec 6) (p : Half),
          expandCopy rel pos n d = some [.lcwAbs c p] ∧ Instr.wf (.lcwAbs c p) = true ∧ c.toNat + 3 = n ∧ p.toNat = q)
      ∧ (1 ≤ d ∧ d ≤ pos → q ≤ 65535 → ¬ (3 ≤ n ∧ n ≤ 64) → n ≤ 65535 → ∃ n' p : Half,
          expandCopy rel pos n d = some [.lcwAbsl n' p] ∧ n'.toNat = n ∧ p.toNat = q)
      ∧ (¬ short → 65535 < q ∨ 65535 < n → expandCopy rel pos n d = none))
end

