-- ==== Sys2Proof/Laws/Decode.lean ====
section
/-!
SUPPORT. The small lemmas of the decoder: taking bytes, byte order, and a literal form.
-/

namespace Sys2Proof

/-- Taking as many bytes as a front has gives that front. -/
theorem takeBytes_append (front rest : List Byte) : takeBytes front.length (front ++ rest) = some (front, rest) := by
  induction front with
  | nil => rfl
  | cons b front ih => simp [takeBytes, ih]

/-- Everything `takeBytes` can answer. -/
theorem takeBytes_eq_some {n : Nat} {bs front rest : List Byte} (h : takeBytes n bs = some (front, rest)) :
    bs = front ++ rest ∧ front.length = n := by
  induction n generalizing bs front rest with
  | zero => simp [takeBytes] at h; simp [h]
  | succ n ih =>
    cases bs with
    | nil => simp [takeBytes] at h
    | cons b bs =>
      rw [takeBytes] at h
      split at h
      · next f r hfr =>
        simp only [Option.some.injEq, Prod.mk.injEq] at h
        obtain ⟨rfl, rfl⟩ := h
        obtain ⟨h1, h2⟩ := ih hfr
        simp [h1, h2]
      · cases h

theorem takeBytes_eq_none {n : Nat} {bs : List Byte} : takeBytes n bs = none ↔ bs.length < n := by
  induction n generalizing bs with
  | zero => simp [takeBytes]
  | succ n ih =>
    cases bs with
    | nil => simp [takeBytes]
    | cons b bs =>
      rw [takeBytes, List.length_cons, Nat.add_lt_add_iff_right, ← ih]
      cases takeBytes n bs <;> simp

/-- R61 both ways: the two bytes of a word, put together, are the word. -/
theorem half_of_bytes (w : Half) : half (w.extractLsb' 0 8) (w.extractLsb' 8 8) = w := by
  apply BitVec.eq_of_getLsbD_eq
  intro i hi
  simp only [half, BitVec.getLsbD_append, BitVec.getLsbD_extractLsb']
  split
  · simp_all
  · next h => simp [show i - 8 < 8 by omega, show 8 + (i - 8) = i by omega]

theorem halfBytes_half (lo hi : Byte) : halfBytes (half lo hi) = [lo, hi] := by
  simp only [halfBytes, half, List.cons.injEq, and_true]
  constructor <;> (apply BitVec.eq_of_getLsbD_eq; intro i hi)
  · simp only [BitVec.getLsbD_extractLsb', BitVec.getLsbD_append]
    simp [hi]
  · simp only [BitVec.getLsbD_extractLsb', BitVec.getLsbD_append]
    simp [hi]

/-- A literal form decodes its own payload. -/
theorem decodePayload_append (payload rest : List Byte) (mk : List Byte → Instr) :
    decodePayload payload.length (payload ++ rest) mk = .command (mk payload) rest := by
  simp [decodePayload, takeBytes_append]

/-- Everything a literal form can answer. -/
theorem decodePayload_cases (n : Nat) (bs : List Byte) (mk : List Byte → Instr) :
    (∃ payload rest, bs = payload ++ rest ∧ payload.length = n ∧ decodePayload n bs mk = .command (mk payload) rest)
    ∨ (bs.length < n ∧ decodePayload n bs mk = .inputOverrun) := by
  unfold decodePayload
  cases h : takeBytes n bs with
  | none => exact .inr ⟨takeBytes_eq_none.mp h, rfl⟩
  | some p =>
    obtain ⟨payload, rest⟩ := p
    obtain ⟨h1, h2⟩ := takeBytes_eq_some h
    exact .inl ⟨payload, rest, h1, h2, rfl⟩

end Sys2Proof
end

