-- ==== Sys2Proof/Laws/State.lean ====
section
/-!
SUPPORT. One lemma per field per named update of the state, each true by rfl, and the few updates that choose by a test.
-/

namespace Sys2Proof.Machine

/-! ### advance -/

@[simp] theorem State.advance_params (s : State) (len count : Nat) : (s.advance len count).params = s.params := rfl
@[simp] theorem State.advance_rel (s : State) (len count : Nat) : (s.advance len count).rel = s.rel := rfl
@[simp] theorem State.advance_st (s : State) (len count : Nat) : (s.advance len count).st = s.st := rfl
@[simp] theorem State.advance_phase (s : State) (len count : Nat) : (s.advance len count).phase = s.phase := rfl
@[simp] theorem State.advance_full (s : State) (len count : Nat) : (s.advance len count).full = s.full := rfl
@[simp] theorem State.advance_job (s : State) (len count : Nat) : (s.advance len count).job = s.job := rfl
@[simp] theorem State.advance_cause (s : State) (len count : Nat) : (s.advance len count).cause = s.cause := rfl
@[simp] theorem State.advance_cap (s : State) (len count : Nat) : (s.advance len count).cap = s.cap := rfl
@[simp] theorem State.advance_srcLen (s : State) (len count : Nat) : (s.advance len count).srcLen = s.srcLen := rfl
@[simp] theorem State.advance_scrLen (s : State) (len count : Nat) : (s.advance len count).scrLen = s.scrLen := rfl
@[simp] theorem State.advance_sp (s : State) (len count : Nat) : (s.advance len count).sp = BitVec.ofNat 32 (s.sp.toNat + len) := rfl
@[simp] theorem State.advance_dp (s : State) (len count : Nat) : (s.advance len count).dp = BitVec.ofNat 32 (s.dp.toNat + count) := rfl
@[simp] theorem State.advance_src (s : State) (len count : Nat) : (s.advance len count).src = s.src := rfl
@[simp] theorem State.advance_scr (s : State) (len count : Nat) : (s.advance len count).scr = s.scr := rfl
@[simp] theorem State.advance_frm (s : State) (len count : Nat) : (s.advance len count).frm = s.frm := rfl
@[simp] theorem State.advance_boot (s : State) (len count : Nat) : (s.advance len count).boot = s.boot := rfl
@[simp] theorem State.advance_draws (s : State) (len count : Nat) : (s.advance len count).draws = s.draws := rfl
@[simp] theorem State.advance_hostData (s : State) (len count : Nat) : (s.advance len count).hostData = s.hostData := rfl
@[simp] theorem State.advance_turns (s : State) (len count : Nat) : (s.advance len count).turns = s.turns := rfl

/-! ### raise and finish -/

@[simp] theorem State.raise_params (s : State) (f : Cause) : (s.raise f).params = s.params := rfl
@[simp] theorem State.raise_rel (s : State) (f : Cause) : (s.raise f).rel = s.rel := rfl
@[simp] theorem State.raise_st (s : State) (f : Cause) : (s.raise f).st = .fault := rfl
@[simp] theorem State.raise_phase (s : State) (f : Cause) : (s.raise f).phase = s.phase := rfl
@[simp] theorem State.raise_full (s : State) (f : Cause) : (s.raise f).full = s.full := rfl
@[simp] theorem State.raise_job (s : State) (f : Cause) : (s.raise f).job = s.job := rfl
@[simp] theorem State.raise_cause (s : State) (f : Cause) : (s.raise f).cause = f := rfl
@[simp] theorem State.raise_cap (s : State) (f : Cause) : (s.raise f).cap = s.cap := rfl
@[simp] theorem State.raise_srcLen (s : State) (f : Cause) : (s.raise f).srcLen = s.srcLen := rfl
@[simp] theorem State.raise_scrLen (s : State) (f : Cause) : (s.raise f).scrLen = s.scrLen := rfl
@[simp] theorem State.raise_sp (s : State) (f : Cause) : (s.raise f).sp = s.sp := rfl
@[simp] theorem State.raise_dp (s : State) (f : Cause) : (s.raise f).dp = s.dp := rfl
@[simp] theorem State.raise_src (s : State) (f : Cause) : (s.raise f).src = s.src := rfl
@[simp] theorem State.raise_scr (s : State) (f : Cause) : (s.raise f).scr = s.scr := rfl
@[simp] theorem State.raise_frm (s : State) (f : Cause) : (s.raise f).frm = s.frm := rfl
@[simp] theorem State.raise_boot (s : State) (f : Cause) : (s.raise f).boot = s.boot := rfl
@[simp] theorem State.raise_draws (s : State) (f : Cause) : (s.raise f).draws = s.draws := rfl
@[simp] theorem State.raise_hostData (s : State) (f : Cause) : (s.raise f).hostData = s.hostData := rfl
@[simp] theorem State.raise_turns (s : State) (f : Cause) : (s.raise f).turns = s.turns := rfl

@[simp] theorem State.finish_params (s : State) : (s.finish).params = s.params := rfl
@[simp] theorem State.finish_rel (s : State) : (s.finish).rel = s.rel := rfl
@[simp] theorem State.finish_st (s : State) : (s.finish).st = .done := rfl
@[simp] theorem State.finish_phase (s : State) : (s.finish).phase = s.phase := rfl
@[simp] theorem State.finish_full (s : State) : (s.finish).full = s.full := rfl
@[simp] theorem State.finish_job (s : State) : (s.finish).job = s.job := rfl
@[simp] theorem State.finish_cause (s : State) : (s.finish).cause = s.cause := rfl
@[simp] theorem State.finish_cap (s : State) : (s.finish).cap = s.cap := rfl
@[simp] theorem State.finish_srcLen (s : State) : (s.finish).srcLen = s.srcLen := rfl
@[simp] theorem State.finish_scrLen (s : State) : (s.finish).scrLen = s.scrLen := rfl
@[simp] theorem State.finish_sp (s : State) : (s.finish).sp = s.sp := rfl
@[simp] theorem State.finish_dp (s : State) : (s.finish).dp = s.dp := rfl
@[simp] theorem State.finish_src (s : State) : (s.finish).src = s.src := rfl
@[simp] theorem State.finish_scr (s : State) : (s.finish).scr = s.scr := rfl
@[simp] theorem State.finish_frm (s : State) : (s.finish).frm = s.frm := rfl
@[simp] theorem State.finish_boot (s : State) : (s.finish).boot = s.boot := rfl
@[simp] theorem State.finish_draws (s : State) : (s.finish).draws = s.draws := rfl
@[simp] theorem State.finish_hostData (s : State) : (s.finish).hostData = s.hostData := rfl
@[simp] theorem State.finish_turns (s : State) : (s.finish).turns = s.turns := rfl

/-! ### the FRAME transition and a new job -/

@[simp] theorem State.passToXd_params (s : State) : (s.passToXd).params = s.params := rfl
@[simp] theorem State.passToXd_rel (s : State) : (s.passToXd).rel = s.rel := rfl
@[simp] theorem State.passToXd_st (s : State) : (s.passToXd).st = s.st := rfl
@[simp] theorem State.passToXd_phase (s : State) : (s.passToXd).phase = .xd := rfl
@[simp] theorem State.passToXd_full (s : State) : (s.passToXd).full = s.full := rfl
@[simp] theorem State.passToXd_job (s : State) : (s.passToXd).job = s.job := rfl
@[simp] theorem State.passToXd_cause (s : State) : (s.passToXd).cause = s.cause := rfl
@[simp] theorem State.passToXd_cap (s : State) : (s.passToXd).cap = s.cap := rfl
@[simp] theorem State.passToXd_srcLen (s : State) : (s.passToXd).srcLen = s.srcLen := rfl
@[simp] theorem State.passToXd_scrLen (s : State) : (s.passToXd).scrLen = s.scrLen := rfl
@[simp] theorem State.passToXd_sp (s : State) : (s.passToXd).sp = 0#32 := rfl
@[simp] theorem State.passToXd_dp (s : State) : (s.passToXd).dp = 0#32 := rfl
@[simp] theorem State.passToXd_src (s : State) : (s.passToXd).src = s.src := rfl
@[simp] theorem State.passToXd_scr (s : State) : (s.passToXd).scr = s.scr := rfl
@[simp] theorem State.passToXd_frm (s : State) : (s.passToXd).frm = s.frm := rfl
@[simp] theorem State.passToXd_boot (s : State) : (s.passToXd).boot = s.boot := rfl
@[simp] theorem State.passToXd_draws (s : State) : (s.passToXd).draws = s.draws := rfl
@[simp] theorem State.passToXd_hostData (s : State) : (s.passToXd).hostData = s.hostData := rfl
@[simp] theorem State.passToXd_turns (s : State) : (s.passToXd).turns = s.turns := rfl

@[simp] theorem State.newJob_params (s : State) (j : BitVec 3) (ph : Phase) : (s.newJob j ph).params = s.params := rfl
@[simp] theorem State.newJob_rel (s : State) (j : BitVec 3) (ph : Phase) : (s.newJob j ph).rel = s.rel := rfl
@[simp] theorem State.newJob_st (s : State) (j : BitVec 3) (ph : Phase) : (s.newJob j ph).st = s.st := rfl
@[simp] theorem State.newJob_phase (s : State) (j : BitVec 3) (ph : Phase) : (s.newJob j ph).phase = ph := rfl
@[simp] theorem State.newJob_full (s : State) (j : BitVec 3) (ph : Phase) : (s.newJob j ph).full = false := rfl
@[simp] theorem State.newJob_job (s : State) (j : BitVec 3) (ph : Phase) : (s.newJob j ph).job = j := rfl
@[simp] theorem State.newJob_cause (s : State) (j : BitVec 3) (ph : Phase) : (s.newJob j ph).cause = .none := rfl
@[simp] theorem State.newJob_cap (s : State) (j : BitVec 3) (ph : Phase) : (s.newJob j ph).cap = s.cap := rfl
@[simp] theorem State.newJob_srcLen (s : State) (j : BitVec 3) (ph : Phase) : (s.newJob j ph).srcLen = s.srcLen := rfl
@[simp] theorem State.newJob_scrLen (s : State) (j : BitVec 3) (ph : Phase) : (s.newJob j ph).scrLen = s.scrLen := rfl
@[simp] theorem State.newJob_sp (s : State) (j : BitVec 3) (ph : Phase) : (s.newJob j ph).sp = 0#32 := rfl
@[simp] theorem State.newJob_dp (s : State) (j : BitVec 3) (ph : Phase) : (s.newJob j ph).dp = 0#32 := rfl
@[simp] theorem State.newJob_src (s : State) (j : BitVec 3) (ph : Phase) : (s.newJob j ph).src = s.src := rfl
@[simp] theorem State.newJob_scr (s : State) (j : BitVec 3) (ph : Phase) : (s.newJob j ph).scr = s.scr := rfl
@[simp] theorem State.newJob_frm (s : State) (j : BitVec 3) (ph : Phase) : (s.newJob j ph).frm = s.frm := rfl
@[simp] theorem State.newJob_boot (s : State) (j : BitVec 3) (ph : Phase) : (s.newJob j ph).boot = s.boot := rfl
@[simp] theorem State.newJob_draws (s : State) (j : BitVec 3) (ph : Phase) : (s.newJob j ph).draws = s.draws := rfl
@[simp] theorem State.newJob_hostData (s : State) (j : BitVec 3) (ph : Phase) : (s.newJob j ph).hostData = s.hostData := rfl
@[simp] theorem State.newJob_turns (s : State) (j : BitVec 3) (ph : Phase) : (s.newJob j ph).turns = s.turns := rfl

/-! ### the turn list and the host's read data -/

@[simp] theorem State.popTurn_params (s : State) : (s.popTurn).params = s.params := rfl
@[simp] theorem State.popTurn_rel (s : State) : (s.popTurn).rel = s.rel := rfl
@[simp] theorem State.popTurn_st (s : State) : (s.popTurn).st = s.st := rfl
@[simp] theorem State.popTurn_phase (s : State) : (s.popTurn).phase = s.phase := rfl
@[simp] theorem State.popTurn_full (s : State) : (s.popTurn).full = s.full := rfl
@[simp] theorem State.popTurn_job (s : State) : (s.popTurn).job = s.job := rfl
@[simp] theorem State.popTurn_cause (s : State) : (s.popTurn).cause = s.cause := rfl
@[simp] theorem State.popTurn_cap (s : State) : (s.popTurn).cap = s.cap := rfl
@[simp] theorem State.popTurn_srcLen (s : State) : (s.popTurn).srcLen = s.srcLen := rfl
@[simp] theorem State.popTurn_scrLen (s : State) : (s.popTurn).scrLen = s.scrLen := rfl
@[simp] theorem State.popTurn_sp (s : State) : (s.popTurn).sp = s.sp := rfl
@[simp] theorem State.popTurn_dp (s : State) : (s.popTurn).dp = s.dp := rfl
@[simp] theorem State.popTurn_src (s : State) : (s.popTurn).src = s.src := rfl
@[simp] theorem State.popTurn_scr (s : State) : (s.popTurn).scr = s.scr := rfl
@[simp] theorem State.popTurn_frm (s : State) : (s.popTurn).frm = s.frm := rfl
@[simp] theorem State.popTurn_boot (s : State) : (s.popTurn).boot = s.boot := rfl
@[simp] theorem State.popTurn_draws (s : State) : (s.popTurn).draws = s.draws := rfl
@[simp] theorem State.popTurn_hostData (s : State) : (s.popTurn).hostData = s.hostData := rfl
@[simp] theorem State.popTurn_turns (s : State) : (s.popTurn).turns = s.turns.tail := rfl

@[simp] theorem State.answer_params (s : State) (x : Word) : (s.answer x).params = s.params := rfl
@[simp] theorem State.answer_rel (s : State) (x : Word) : (s.answer x).rel = s.rel := rfl
@[simp] theorem State.answer_st (s : State) (x : Word) : (s.answer x).st = s.st := rfl
@[simp] theorem State.answer_phase (s : State) (x : Word) : (s.answer x).phase = s.phase := rfl
@[simp] theorem State.answer_full (s : State) (x : Word) : (s.answer x).full = s.full := rfl
@[simp] theorem State.answer_job (s : State) (x : Word) : (s.answer x).job = s.job := rfl
@[simp] theorem State.answer_cause (s : State) (x : Word) : (s.answer x).cause = s.cause := rfl
@[simp] theorem State.answer_cap (s : State) (x : Word) : (s.answer x).cap = s.cap := rfl
@[simp] theorem State.answer_srcLen (s : State) (x : Word) : (s.answer x).srcLen = s.srcLen := rfl
@[simp] theorem State.answer_scrLen (s : State) (x : Word) : (s.answer x).scrLen = s.scrLen := rfl
@[simp] theorem State.answer_sp (s : State) (x : Word) : (s.answer x).sp = s.sp := rfl
@[simp] theorem State.answer_dp (s : State) (x : Word) : (s.answer x).dp = s.dp := rfl
@[simp] theorem State.answer_src (s : State) (x : Word) : (s.answer x).src = s.src := rfl
@[simp] theorem State.answer_scr (s : State) (x : Word) : (s.answer x).scr = s.scr := rfl
@[simp] theorem State.answer_frm (s : State) (x : Word) : (s.answer x).frm = s.frm := rfl
@[simp] theorem State.answer_boot (s : State) (x : Word) : (s.answer x).boot = s.boot := rfl
@[simp] theorem State.answer_draws (s : State) (x : Word) : (s.answer x).draws = s.draws := rfl
@[simp] theorem State.answer_hostData (s : State) (x : Word) : (s.answer x).hostData = x := rfl
@[simp] theorem State.answer_turns (s : State) (x : Word) : (s.answer x).turns = s.turns := rfl

@[simp] theorem State.answerDraw_params (s : State) (x : Word) : (s.answerDraw x).params = s.params := rfl
@[simp] theorem State.answerDraw_rel (s : State) (x : Word) : (s.answerDraw x).rel = s.rel := rfl
@[simp] theorem State.answerDraw_st (s : State) (x : Word) : (s.answerDraw x).st = s.st := rfl
@[simp] theorem State.answerDraw_phase (s : State) (x : Word) : (s.answerDraw x).phase = s.phase := rfl
@[simp] theorem State.answerDraw_full (s : State) (x : Word) : (s.answerDraw x).full = s.full := rfl
@[simp] theorem State.answerDraw_job (s : State) (x : Word) : (s.answerDraw x).job = s.job := rfl
@[simp] theorem State.answerDraw_cause (s : State) (x : Word) : (s.answerDraw x).cause = s.cause := rfl
@[simp] theorem State.answerDraw_cap (s : State) (x : Word) : (s.answerDraw x).cap = s.cap := rfl
@[simp] theorem State.answerDraw_srcLen (s : State) (x : Word) : (s.answerDraw x).srcLen = s.srcLen := rfl
@[simp] theorem State.answerDraw_scrLen (s : State) (x : Word) : (s.answerDraw x).scrLen = s.scrLen := rfl
@[simp] theorem State.answerDraw_sp (s : State) (x : Word) : (s.answerDraw x).sp = s.sp := rfl
@[simp] theorem State.answerDraw_dp (s : State) (x : Word) : (s.answerDraw x).dp = s.dp := rfl
@[simp] theorem State.answerDraw_src (s : State) (x : Word) : (s.answerDraw x).src = s.src := rfl
@[simp] theorem State.answerDraw_scr (s : State) (x : Word) : (s.answerDraw x).scr = s.scr := rfl
@[simp] theorem State.answerDraw_frm (s : State) (x : Word) : (s.answerDraw x).frm = s.frm := rfl
@[simp] theorem State.answerDraw_boot (s : State) (x : Word) : (s.answerDraw x).boot = s.boot := rfl
@[simp] theorem State.answerDraw_draws (s : State) (x : Word) : (s.answerDraw x).draws = s.draws + 1 := rfl
@[simp] theorem State.answerDraw_hostData (s : State) (x : Word) : (s.answerDraw x).hostData = x := rfl
@[simp] theorem State.answerDraw_turns (s : State) (x : Word) : (s.answerDraw x).turns = s.turns := rfl

@[simp] theorem State.block_params (s : State) : (s.block).params = s.params := rfl
@[simp] theorem State.block_rel (s : State) : (s.block).rel = s.rel := rfl
@[simp] theorem State.block_st (s : State) : (s.block).st = s.st := rfl
@[simp] theorem State.block_phase (s : State) : (s.block).phase = s.phase := rfl
@[simp] theorem State.block_full (s : State) : (s.block).full = s.full := rfl
@[simp] theorem State.block_job (s : State) : (s.block).job = s.job := rfl
@[simp] theorem State.block_cause (s : State) : (s.block).cause = s.cause := rfl
@[simp] theorem State.block_cap (s : State) : (s.block).cap = s.cap := rfl
@[simp] theorem State.block_srcLen (s : State) : (s.block).srcLen = s.srcLen := rfl
@[simp] theorem State.block_scrLen (s : State) : (s.block).scrLen = s.scrLen := rfl
@[simp] theorem State.block_sp (s : State) : (s.block).sp = s.sp := rfl
@[simp] theorem State.block_dp (s : State) : (s.block).dp = s.dp := rfl
@[simp] theorem State.block_src (s : State) : (s.block).src = s.src := rfl
@[simp] theorem State.block_scr (s : State) : (s.block).scr = s.scr := rfl
@[simp] theorem State.block_frm (s : State) : (s.block).frm = s.frm := rfl
@[simp] theorem State.block_boot (s : State) : (s.block).boot = s.boot := rfl
@[simp] theorem State.block_draws (s : State) : (s.block).draws = 0 := rfl
@[simp] theorem State.block_hostData (s : State) : (s.block).hostData = 0#32 := rfl
@[simp] theorem State.block_turns (s : State) : (s.block).turns = [] := rfl

/-! ### lcwTerminate, start, setMem -/

@[simp] theorem State.lcwTerminate_params (s : State) (b : Bool) : (s.lcwTerminate b).params = s.params := by
  unfold State.lcwTerminate; split <;> rfl
@[simp] theorem State.lcwTerminate_rel (s : State) (b : Bool) : (s.lcwTerminate b).rel = s.rel := by
  unfold State.lcwTerminate; split <;> rfl
@[simp] theorem State.lcwTerminate_full (s : State) (b : Bool) : (s.lcwTerminate b).full = b := by
  unfold State.lcwTerminate; split <;> rfl
@[simp] theorem State.lcwTerminate_job (s : State) (b : Bool) : (s.lcwTerminate b).job = s.job := by
  unfold State.lcwTerminate; split <;> rfl
@[simp] theorem State.lcwTerminate_cause (s : State) (b : Bool) : (s.lcwTerminate b).cause = s.cause := by
  unfold State.lcwTerminate; split <;> rfl
@[simp] theorem State.lcwTerminate_cap (s : State) (b : Bool) : (s.lcwTerminate b).cap = s.cap := by
  unfold State.lcwTerminate; split <;> rfl
@[simp] theorem State.lcwTerminate_srcLen (s : State) (b : Bool) : (s.lcwTerminate b).srcLen = s.srcLen := by
  unfold State.lcwTerminate; split <;> rfl
@[simp] theorem State.lcwTerminate_scrLen (s : State) (b : Bool) : (s.lcwTerminate b).scrLen = s.dp := by
  unfold State.lcwTerminate; split <;> rfl
@[simp] theorem State.lcwTerminate_src (s : State) (b : Bool) : (s.lcwTerminate b).src = s.src := by
  unfold State.lcwTerminate; split <;> rfl
@[simp] theorem State.lcwTerminate_scr (s : State) (b : Bool) : (s.lcwTerminate b).scr = s.scr := by
  unfold State.lcwTerminate; split <;> rfl
@[simp] theorem State.lcwTerminate_frm (s : State) (b : Bool) : (s.lcwTerminate b).frm = s.frm := by
  unfold State.lcwTerminate; split <;> rfl
@[simp] theorem State.lcwTerminate_boot (s : State) (b : Bool) : (s.lcwTerminate b).boot = s.boot := by
  unfold State.lcwTerminate; split <;> rfl
@[simp] theorem State.lcwTerminate_draws (s : State) (b : Bool) : (s.lcwTerminate b).draws = s.draws := by
  unfold State.lcwTerminate; split <;> rfl
@[simp] theorem State.lcwTerminate_hostData (s : State) (b : Bool) : (s.lcwTerminate b).hostData = s.hostData := by
  unfold State.lcwTerminate; split <;> rfl
@[simp] theorem State.lcwTerminate_turns (s : State) (b : Bool) : (s.lcwTerminate b).turns = s.turns := by
  unfold State.lcwTerminate; split <;> rfl

@[simp] theorem State.start_params (s : State) (op : Op) : (s.start op).params = s.params := by
  unfold State.start; split <;> rfl
@[simp] theorem State.start_rel (s : State) (op : Op) : (s.start op).rel = s.rel := by
  unfold State.start; split <;> rfl
@[simp] theorem State.start_phase (s : State) (op : Op) : (s.start op).phase = op.phase := by
  unfold State.start; split <;> rfl
@[simp] theorem State.start_full (s : State) (op : Op) : (s.start op).full = false := by
  unfold State.start; split <;> rfl
@[simp] theorem State.start_job (s : State) (op : Op) : (s.start op).job = op.code := by
  unfold State.start; split <;> rfl
@[simp] theorem State.start_cap (s : State) (op : Op) : (s.start op).cap = s.cap := by
  unfold State.start; split <;> rfl
@[simp] theorem State.start_srcLen (s : State) (op : Op) : (s.start op).srcLen = s.srcLen := by
  unfold State.start; split <;> rfl
@[simp] theorem State.start_scrLen (s : State) (op : Op) : (s.start op).scrLen = s.scrLen := by
  unfold State.start; split <;> rfl
@[simp] theorem State.start_sp (s : State) (op : Op) : (s.start op).sp = 0#32 := by
  unfold State.start; split <;> rfl
@[simp] theorem State.start_dp (s : State) (op : Op) : (s.start op).dp = 0#32 := by
  unfold State.start; split <;> rfl
@[simp] theorem State.start_src (s : State) (op : Op) : (s.start op).src = s.src := by
  unfold State.start; split <;> rfl
@[simp] theorem State.start_scr (s : State) (op : Op) : (s.start op).scr = s.scr := by
  unfold State.start; split <;> rfl
@[simp] theorem State.start_frm (s : State) (op : Op) : (s.start op).frm = s.frm := by
  unfold State.start; split <;> rfl
@[simp] theorem State.start_boot (s : State) (op : Op) : (s.start op).boot = s.boot := by
  unfold State.start; split <;> rfl
@[simp] theorem State.start_draws (s : State) (op : Op) : (s.start op).draws = s.draws := by
  unfold State.start; split <;> rfl
@[simp] theorem State.start_hostData (s : State) (op : Op) : (s.start op).hostData = s.hostData := by
  unfold State.start; split <;> rfl
@[simp] theorem State.start_turns (s : State) (op : Op) : (s.start op).turns = s.turns := by
  unfold State.start; split <;> rfl

@[simp] theorem State.setMem_params (s : State) (m : Mem) (c : Memory) : (s.setMem m c).params = s.params := by
  cases m <;> rfl
@[simp] theorem State.setMem_rel (s : State) (m : Mem) (c : Memory) : (s.setMem m c).rel = s.rel := by
  cases m <;> rfl
@[simp] theorem State.setMem_st (s : State) (m : Mem) (c : Memory) : (s.setMem m c).st = s.st := by
  cases m <;> rfl
@[simp] theorem State.setMem_phase (s : State) (m : Mem) (c : Memory) : (s.setMem m c).phase = s.phase := by
  cases m <;> rfl
@[simp] theorem State.setMem_full (s : State) (m : Mem) (c : Memory) : (s.setMem m c).full = s.full := by
  cases m <;> rfl
@[simp] theorem State.setMem_job (s : State) (m : Mem) (c : Memory) : (s.setMem m c).job = s.job := by
  cases m <;> rfl
@[simp] theorem State.setMem_cause (s : State) (m : Mem) (c : Memory) : (s.setMem m c).cause = s.cause := by
  cases m <;> rfl
@[simp] theorem State.setMem_cap (s : State) (m : Mem) (c : Memory) : (s.setMem m c).cap = s.cap := by
  cases m <;> rfl
@[simp] theorem State.setMem_srcLen (s : State) (m : Mem) (c : Memory) : (s.setMem m c).srcLen = s.srcLen := by
  cases m <;> rfl
@[simp] theorem State.setMem_scrLen (s : State) (m : Mem) (c : Memory) : (s.setMem m c).scrLen = s.scrLen := by
  cases m <;> rfl
@[simp] theorem State.setMem_sp (s : State) (m : Mem) (c : Memory) : (s.setMem m c).sp = s.sp := by
  cases m <;> rfl
@[simp] theorem State.setMem_dp (s : State) (m : Mem) (c : Memory) : (s.setMem m c).dp = s.dp := by
  cases m <;> rfl
@[simp] theorem State.setMem_boot (s : State) (m : Mem) (c : Memory) : (s.setMem m c).boot = s.boot := by
  cases m <;> rfl
@[simp] theorem State.setMem_draws (s : State) (m : Mem) (c : Memory) : (s.setMem m c).draws = s.draws := by
  cases m <;> rfl
@[simp] theorem State.setMem_hostData (s : State) (m : Mem) (c : Memory) : (s.setMem m c).hostData = s.hostData := by
  cases m <;> rfl
@[simp] theorem State.setMem_turns (s : State) (m : Mem) (c : Memory) : (s.setMem m c).turns = s.turns := by
  cases m <;> rfl

/-! ### the memories by name -/

@[simp] theorem State.mem_src (s : State) : s.mem .src = s.src := rfl
@[simp] theorem State.mem_scr (s : State) : s.mem .scr = s.scr := rfl
@[simp] theorem State.mem_frm (s : State) : s.mem .frm = s.frm := rfl
@[simp] theorem State.setMem_mem (s : State) (m : Mem) (c : Memory) : (s.setMem m c).mem m = c := by
  cases m <;> rfl

theorem State.setMem_mem_other (s : State) (m m' : Mem) (c : Memory) (h : m' ≠ m) : (s.setMem m c).mem m' = s.mem m' := by
  cases m <;> cases m' <;> first | rfl | exact absurd rfl h

@[simp] theorem State.draw_def (s : State) (m : Mem) (a : Nat) : s.draw m a = Config.powerOnByte s.boot m a := rfl

/-! ### reset -/

@[simp] theorem State.assertReset_regs (s : State) : s.assertReset.block = { State.resetWith s.params with boot := s.boot + 1 } := rfl
@[simp] theorem State.assertReset_turns (s : State) : s.assertReset.turns = s.turns := rfl

end Sys2Proof.Machine
end

