-- ==== Sys2Proof/Laws/Memory.lean ====
section
/-!
SUPPORT. The laws of one byte memory: read after write, the canonical form kept by every operation, and what the three loops
(store, XOR store, byte-by-byte copy) do to each byte. 20_memory.md R64, R68.
-/

namespace Sys2Proof.Machine

/-! ### One byte -/

@[simp] theorem Memory.lookup_nil (a : Nat) : Memory.lookup a [] = none := rfl

@[simp] theorem Memory.lookup_cons (a b : Nat) (v : Byte) (m : Memory) :
    Memory.lookup a ((b, v) :: m) = if a = b then some v else Memory.lookup a m := rfl

/-- Reading after writing: the byte written, and every other byte as before. -/
theorem Memory.lookup_write (m : Memory) (a b : Nat) (v : Byte) :
    Memory.lookup b (m.write a v) = if b = a then some v else Memory.lookup b m := by
  induction m with
  | nil => simp [Memory.write]
  | cons c m ih =>
    obtain ⟨x, w⟩ := c
    unfold Memory.write
    split
    · simp
    · split
      · subst_vars
        simp only [Memory.lookup_cons]
        split <;> rfl
      · simp only [Memory.lookup_cons, ih]
        split <;> split <;> simp_all

theorem Memory.read_write (draw : Nat → Byte) (m : Memory) (a b : Nat) (v : Byte) :
    (m.write a v).read draw b = if b = a then v else m.read draw b := by
  unfold Memory.read
  rw [Memory.lookup_write]
  split <;> rfl

@[simp] theorem Memory.read_nil (draw : Nat → Byte) (a : Nat) : Memory.read draw a [] = draw a := rfl

/-! ### Canonical form -/

theorem Memory.wfFrom_cons (lo size a : Nat) (v : Byte) (m : Memory) :
    Memory.wfFrom lo size ((a, v) :: m) = true ↔ lo ≤ a ∧ a < size ∧ Memory.wfFrom (a + 1) size m = true := by
  simp [Memory.wfFrom, and_assoc]

theorem Memory.wfFrom_mono {lo lo' size : Nat} {m : Memory} (h : lo' ≤ lo) (hm : Memory.wfFrom lo size m = true) :
    Memory.wfFrom lo' size m = true := by
  cases m with
  | nil => rfl
  | cons c m =>
    obtain ⟨a, v⟩ := c
    rw [Memory.wfFrom_cons] at hm ⊢
    exact ⟨h.trans hm.1, hm.2⟩

theorem Memory.wfFrom_write {lo size a : Nat} {m : Memory} (v : Byte) (hlo : lo ≤ a) (ha : a < size)
    (hm : Memory.wfFrom lo size m = true) : Memory.wfFrom lo size (m.write a v) = true := by
  induction m generalizing lo with
  | nil => simp [Memory.write, Memory.wfFrom, hlo, ha]
  | cons c m ih =>
    obtain ⟨x, w⟩ := c
    rw [Memory.wfFrom_cons] at hm
    obtain ⟨h1, h2, h3⟩ := hm
    unfold Memory.write
    split
    · rw [Memory.wfFrom_cons, Memory.wfFrom_cons]
      exact ⟨hlo, ha, by omega, h2, h3⟩
    · split
      · subst_vars
        rw [Memory.wfFrom_cons]
        exact ⟨hlo, ha, h3⟩
      · rw [Memory.wfFrom_cons]
        exact ⟨h1, h2, ih (by omega) h3⟩

/-- A write inside the memory keeps the canonical form. -/
theorem Memory.wf_write {size a : Nat} {m : Memory} (v : Byte) (ha : a < size) (hm : m.wf size = true) :
    (m.write a v).wf size = true :=
  Memory.wfFrom_write v (Nat.zero_le a) ha hm

theorem Memory.wf_nil (size : Nat) : Memory.wf size [] = true := rfl

theorem Memory.wf_store {size : Nat} (vs : List Byte) {a : Nat} {m : Memory} (ha : a + vs.length ≤ size)
    (hm : m.wf size = true) : (m.store vs a).wf size = true := by
  induction vs generalizing a m with
  | nil => exact hm
  | cons v vs ih =>
    rw [List.length_cons] at ha
    exact ih (by omega) (Memory.wf_write v (by omega) hm)

theorem Memory.wf_xorStore {size : Nat} (draw : Nat → Byte) (us : List Byte) {a : Nat} {m : Memory}
    (ha : a + us.length ≤ size) (hm : m.wf size = true) : (m.xorStore draw us a).wf size = true := by
  induction us generalizing a m with
  | nil => exact hm
  | cons u us ih =>
    rw [List.length_cons] at ha
    exact ih (by omega) (Memory.wf_write _ (by omega) hm)

theorem Memory.wf_copyBack {size : Nat} (draw : Nat → Byte) (n : Nat) {a b : Nat} {m : Memory} (hb : b + n ≤ size)
    (hm : m.wf size = true) : (m.copyBack draw n a b).wf size = true := by
  induction n generalizing a b m with
  | zero => exact hm
  | succ n ih => exact ih (by omega) (Memory.wf_write _ (by omega) hm)

theorem Memory.wfFrom_imageFrom {size : Nat} (bs : List Byte) (a : Nat) (h : a + bs.length ≤ size) :
    Memory.wfFrom a size (Memory.imageFrom a bs) = true := by
  induction bs generalizing a with
  | nil => rfl
  | cons b bs ih =>
    rw [List.length_cons] at h
    rw [Memory.imageFrom, Memory.wfFrom_cons]
    exact ⟨Nat.le_refl a, by omega, ih (a + 1) (by omega)⟩

theorem Memory.wf_image {size : Nat} (bs : List Byte) (h : bs.length ≤ size) : (Memory.image bs).wf size = true :=
  Memory.wfFrom_imageFrom bs 0 (by omega)

/-- A loaded image holds its bytes. -/
theorem Memory.lookup_imageFrom (bs : List Byte) (a k : Nat) (h : k < bs.length) :
    Memory.lookup (a + k) (Memory.imageFrom a bs) = some (bs.getD k 0#8) := by
  induction bs generalizing a k with
  | nil => simp at h
  | cons b bs ih =>
    rw [Memory.imageFrom, Memory.lookup_cons]
    cases k with
    | zero => simp
    | succ k =>
      rw [if_neg (by omega), show a + (k + 1) = a + 1 + k by omega, ih (a + 1) k (by simpa using h), List.getD_cons_succ]

theorem Memory.lookup_below {lo size a : Nat} {m : Memory} (hm : Memory.wfFrom lo size m = true) (ha : a < lo) :
    Memory.lookup a m = none := by
  induction m generalizing lo with
  | nil => rfl
  | cons c m ih =>
    obtain ⟨x, w⟩ := c
    rw [Memory.wfFrom_cons] at hm
    rw [Memory.lookup_cons, if_neg (by omega)]
    exact ih hm.2.2 (by omega)

/-- Equal memories are equal data: two memories in canonical form that hold the same written bytes are the same list. -/
theorem Memory.ext_of_wfFrom {lo lo' size size' : Nat} {m m' : Memory} (hm : Memory.wfFrom lo size m = true)
    (hm' : Memory.wfFrom lo' size' m' = true) (h : ∀ a, Memory.lookup a m = Memory.lookup a m') : m = m' := by
  induction m generalizing lo lo' m' with
  | nil =>
    cases m' with
    | nil => rfl
    | cons c m' => have := h c.1; simp [Memory.lookup] at this
  | cons c m ih =>
    obtain ⟨x, w⟩ := c
    cases m' with
    | nil => have := h x; simp at this
    | cons c' m' =>
      obtain ⟨y, w'⟩ := c'
      rw [Memory.wfFrom_cons] at hm hm'
      have hx := h x
      have hy := h y
      have hxy : x = y := by
        rcases Nat.lt_trichotomy x y with hlt | heq | hgt
        · rw [Memory.lookup_cons, if_pos rfl, Memory.lookup_cons, if_neg (by omega),
            Memory.lookup_below hm'.2.2 (by omega)] at hx
          cases hx
        · exact heq
        · rw [Memory.lookup_cons, if_neg (by omega), Memory.lookup_below hm.2.2 (by omega), Memory.lookup_cons,
            if_pos rfl] at hy
          cases hy
      subst hxy
      have hw : w = w' := by simpa using hx
      subst hw
      congr 1
      refine ih hm.2.2 hm'.2.2 (fun a => ?_)
      by_cases ha : a = x
      · subst ha
        rw [Memory.lookup_below hm.2.2 (by omega), Memory.lookup_below hm'.2.2 (by omega)]
      · simpa [ha] using h a

/-! ### The loops, byte by byte -/

/-- What `store` leaves at each address. -/
theorem Memory.read_store (draw : Nat → Byte) (vs : List Byte) (a b : Nat) (m : Memory) :
    (m.store vs a).read draw b = if a ≤ b ∧ b < a + vs.length then vs.getD (b - a) 0#8 else m.read draw b := by
  induction vs generalizing a m with
  | nil => rw [if_neg (by simp only [List.length_nil]; omega)]; rfl
  | cons v vs ih =>
    rw [Memory.store, ih, Memory.read_write, List.length_cons]
    by_cases h1 : a + 1 ≤ b ∧ b < a + 1 + vs.length
    · rw [if_pos h1, if_pos (by omega), show b - a = b - (a + 1) + 1 by omega, List.getD_cons_succ]
    · rw [if_neg h1]
      by_cases h2 : b = a
      · subst h2; simp
      · rw [if_neg h2, if_neg (by omega)]

/-- What `xorStore` leaves at each address (41_xordelta.md R143). -/
theorem Memory.read_xorStore (draw : Nat → Byte) (us : List Byte) (a b : Nat) (m : Memory) :
    (m.xorStore draw us a).read draw b =
      if a ≤ b ∧ b < a + us.length then m.read draw b ^^^ us.getD (b - a) 0#8 else m.read draw b := by
  induction us generalizing a m with
  | nil => rw [if_neg (by simp only [List.length_nil]; omega)]; rfl
  | cons u us ih =>
    rw [Memory.xorStore, ih, Memory.read_write, List.length_cons]
    by_cases h1 : a + 1 ≤ b ∧ b < a + 1 + us.length
    · rw [if_pos h1, if_neg (show ¬ b = a by omega), if_pos (by omega), show b - a = b - (a + 1) + 1 by omega, List.getD_cons_succ]
    · rw [if_neg h1]
      by_cases h2 : b = a
      · subst h2; simp
      · rw [if_neg h2, if_neg (by omega)]

/-- `copyBack` writes only `[to, to + n)`. -/
theorem Memory.read_copyBack_outside (draw : Nat → Byte) (n src dst b : Nat) (m : Memory) (h : ¬ (dst ≤ b ∧ b < dst + n)) :
    (m.copyBack draw n src dst).read draw b = m.read draw b := by
  induction n generalizing src dst m with
  | zero => rfl
  | succ n ih => rw [Memory.copyBack, ih _ _ _ (by omega), Memory.read_write, if_neg (by omega)]

/-- Each byte `copyBack` writes equals the byte it was copied from, as that byte stands afterwards: the source lies below the
destination, so it is written before it is read or not at all (40_lcw.md R102). -/
theorem Memory.read_copyBack_inside (draw : Nat → Byte) (n src dst i : Nat) (m : Memory) (h : src < dst) (hi : i < n) :
    (m.copyBack draw n src dst).read draw (dst + i) = (m.copyBack draw n src dst).read draw (src + i) := by
  induction n generalizing src dst i m with
  | zero => omega
  | succ n ih =>
    rw [Memory.copyBack]
    cases i with
    | zero =>
      rw [Memory.read_copyBack_outside _ _ _ _ _ _ (by omega), Memory.read_copyBack_outside _ _ _ _ _ _ (by omega),
        Nat.add_zero, Nat.add_zero, Memory.read_write, Memory.read_write, if_pos rfl, if_neg (by omega)]
    | succ i =>
      have := ih (src + 1) (dst + 1) i (m.write dst (m.read draw src)) (by omega) (by omega)
      rwa [show dst + (i + 1) = dst + 1 + i by omega, show src + (i + 1) = src + 1 + i by omega]

/-! ### Bytes of a state -/

theorem State.peek_def (s : State) (m : Mem) (a : Nat) : s.peek m a = (s.mem m).read (s.draw m) a := rfl

/-- Reading after `poke`. -/
theorem State.peek_poke (s : State) (m : Mem) (a b : Nat) (v : Byte) :
    (s.poke m a v).peek m b = if b = a then v else s.peek m b := by
  cases m <;> exact Memory.read_write _ _ _ _ _

theorem State.peek_poke_other (s : State) (m m' : Mem) (a b : Nat) (v : Byte) (h : m' ≠ m) :
    (s.poke m a v).peek m' b = s.peek m' b := by
  cases m <;> cases m' <;> first | rfl | exact absurd rfl h

/-- A byte depends on its memory and on the reset it stands under, and on nothing else of the state. -/
theorem State.peek_congr {s t : State} {m : Mem} (hm : s.mem m = t.mem m) (hb : s.boot = t.boot) (a : Nat) :
    s.peek m a = t.peek m a := by
  simp [State.peek, State.draw, hm, hb]

end Sys2Proof.Machine
end

