-- ==== Sys2Proof/Laws/Ops.lean ====
section
/-!
SUPPORT. For each shared operation, one lemma that says once everything it can do. Proofs cite these instead of unfolding.
-/

namespace Sys2Proof.Machine

/-! ### Sources -/

theorem State.backrefOk_iff (s : State) (x : Int) : s.backrefOk x = true ↔ 0 ≤ x ∧ x < (s.dp.toNat : Int) := by
  simp [State.backrefOk]

theorem State.outside_iff (s : State) (count : Nat) :
    s.outside count = true ↔ 0 < count ∧ s.params.bufSize < s.dp.toNat + count := by
  simp [State.outside]

/-! ### The command templates -/

/-- Everything an LCW command that writes or copies can answer with a next state (R104, R203 to R205). -/
theorem State.lcwCommand_cases {s t : State} {len count : Nat} {source : Option Int} {write : Memory → Memory}
    (h : s.lcwCommand len count source write = .next t) :
    (s.srcLen.toNat < s.sp.toNat + len ∧ t = s.raise .inputOverrun)
    ∨ (s.sp.toNat + len ≤ s.srcLen.toNat ∧ (∃ x, source = some x ∧ s.backrefOk x = false) ∧ t = s.raise .backrefRange)
    ∨ (s.sp.toNat + len ≤ s.srcLen.toNat ∧ (∀ x, source = some x → s.backrefOk x = true)
        ∧ s.cap.toNat < s.dp.toNat + count ∧ t = s.raise .capacity)
    ∨ (s.sp.toNat + len ≤ s.srcLen.toNat ∧ (∀ x, source = some x → s.backrefOk x = true)
        ∧ s.dp.toNat + count ≤ s.cap.toNat ∧ s.outside count = false
        ∧ t = { s with scr := write s.scr }.advance len count) := by
  unfold State.lcwCommand at h
  split at h
  · injection h with h; exact .inl ⟨‹_›, h.symm⟩
  · next h1 =>
    split at h
    · next h2 =>
      injection h with h
      obtain ⟨x, hx, hb⟩ := (Option.any_eq_true _ _).mp h2
      exact .inr (.inl ⟨by omega, ⟨x, hx, by simpa using hb⟩, h.symm⟩)
    · next h2 =>
      have hs : ∀ x, source = some x → s.backrefOk x = true := by
        rintro x rfl
        simpa using h2
      split at h
      · injection h with h; exact .inr (.inr (.inl ⟨by omega, hs, by omega, h.symm⟩))
      · split at h
        · cases h
        · next h4 => injection h with h; exact .inr (.inr (.inr ⟨by omega, hs, by omega, by simpa using h4, h.symm⟩))

/-- An LCW command whose checks all pass completes (R104). -/
theorem State.lcwCommand_next {s : State} {len count : Nat} {source : Option Int} {write : Memory → Memory}
    (h1 : s.sp.toNat + len ≤ s.srcLen.toNat) (h2 : ∀ x, source = some x → s.backrefOk x = true)
    (h3 : s.dp.toNat + count ≤ s.cap.toNat) (h4 : s.cap.toNat ≤ s.params.bufSize) :
    s.lcwCommand len count source write = .next ({ s with scr := write s.scr }.advance len count) := by
  unfold State.lcwCommand
  rw [if_neg (by omega), if_neg, if_neg (by omega), if_neg]
  · simp [State.outside]; omega
  · cases source with
    | none => simp
    | some x => simp [h2 x rfl]

/-- Everything an XD update can answer with a next state (R142, R203 to R205). -/
theorem State.xdUpdate_cases {s t : State} {len : Nat} {us : List Byte} (h : s.xdUpdate len us = .next t) :
    (s.scrLen.toNat < s.sp.toNat + len ∧ t = s.raise .inputOverrun)
    ∨ (s.sp.toNat + len ≤ s.scrLen.toNat ∧ s.cap.toNat < s.dp.toNat + us.length ∧ t = s.raise .capacity)
    ∨ (s.sp.toNat + len ≤ s.scrLen.toNat ∧ s.dp.toNat + us.length ≤ s.cap.toNat ∧ s.outside us.length = false
        ∧ t = { s with frm := s.frm.xorStore (s.draw .frm) us s.dp.toNat }.advance len us.length) := by
  unfold State.xdUpdate at h
  split at h
  · injection h with h; exact .inl ⟨‹_›, h.symm⟩
  · split at h
    · injection h with h; exact .inr (.inl ⟨by omega, by omega, h.symm⟩)
    · split at h
      · cases h
      · next h3 => injection h with h; exact .inr (.inr ⟨by omega, by omega, by simpa using h3, h.symm⟩)

/-- An XD update whose checks all pass completes (R142). -/
theorem State.xdUpdate_next {s : State} {len : Nat} {us : List Byte} (h1 : s.sp.toNat + len ≤ s.scrLen.toNat)
    (h2 : s.dp.toNat + us.length ≤ s.cap.toNat) (h3 : s.cap.toNat ≤ s.params.bufSize) :
    s.xdUpdate len us = .next ({ s with frm := s.frm.xorStore (s.draw .frm) us s.dp.toNat }.advance len us.length) := by
  unfold State.xdUpdate
  rw [if_neg (by omega), if_neg (by omega), if_neg]
  simp [State.outside]; omega

/-- Everything an XD skip can do (R142, R144, R148). -/
theorem State.xdSkip_cases {s t : State} {len count : Nat} (h : s.xdSkip len count = .next t) :
    (s.cap.toNat < s.dp.toNat + count ∧ t = s.raise .capacity)
    ∨ (s.dp.toNat + count ≤ s.cap.toNat ∧ t = s.advance len count) := by
  unfold State.xdSkip at h
  split at h <;> injection h with h
  · exact .inl ⟨‹_›, h.symm⟩
  · exact .inr ⟨by omega, h.symm⟩

/-! ### Ends and starts -/

/-- Everything LcwTerminate can do (R113, R187, R188). -/
theorem State.lcwTerminate_cases (s : State) (full : Bool) :
    (s.job = jobFrame ∧ s.lcwTerminate full
        = { s with scrLen := s.dp, full := full, phase := .xd, sp := 0#32, dp := 0#32 })
    ∨ (s.job ≠ jobFrame ∧ s.lcwTerminate full = { s with scrLen := s.dp, full := full, st := .done }) := by
  unfold State.lcwTerminate
  split
  · exact .inl ⟨‹_›, rfl⟩
  · exact .inr ⟨‹_›, rfl⟩

/-- When a configuration is bad (R189). -/
theorem State.configBad_iff (s : State) (op : Op) :
    s.configBad op = true ↔
      s.params.bufSize < s.cap.toNat
      ∨ ((op = .lcw ∨ op = .frame) ∧ s.params.srcSize < s.srcLen.toNat)
      ∨ (op = .xd ∧ s.params.bufSize < s.scrLen.toNat) := by
  cases op <;> simp [State.configBad]

/-- Everything Start(op) can do (R182, R189). -/
theorem State.start_cases (s : State) (op : Op) :
    (s.configBad op = true ∧ s.start op = (s.newJob op.code op.phase).raise .config)
    ∨ (s.configBad op = false ∧ s.start op = { s.newJob op.code op.phase with st := .running }) := by
  unfold State.start
  cases h : s.configBad op
  · exact .inr ⟨rfl, if_neg (by decide)⟩
  · exact .inl ⟨rfl, if_pos rfl⟩

/-- Everything a CTRL write can do (R40, R180). -/
theorem State.ctrlOperation_cases (s : State) (rel : Bool) (perform : State → State) :
    (s.st = .running ∧ s.ctrlOperation rel perform = s)
    ∨ (s.st ≠ .running ∧ s.ctrlOperation rel perform = perform { s with rel := rel }) := by
  unfold State.ctrlOperation
  split
  · exact .inl ⟨‹_›, rfl⟩
  · exact .inr ⟨‹_›, rfl⟩

/-! ### The host's ports -/

/-- Everything a host register write other than of CTRL can do (R22, R40). -/
theorem State.writeReg_cases (s : State) (r : Reg) (x : Word) :
    s.writeReg r x = s
    ∨ (s.st ≠ .running ∧ ((r = .cap ∧ s.writeReg r x = { s with cap := x })
        ∨ (r = .srcLen ∧ s.writeReg r x = { s with srcLen := x })
        ∨ (r = .scrLen ∧ s.writeReg r x = { s with scrLen := x }))) := by
  unfold State.writeReg
  split
  · exact .inl rfl
  · cases r <;> simp_all

/-- A host register read writes the model's own fields only (R22, R38). -/
theorem State.readReg_cases (s : State) (offset : BitVec 6) :
    (∃ x, s.readReg offset = s.answer x) ∨ (∃ x, s.readReg offset = s.answerDraw x) := by
  unfold State.readReg
  split
  · exact .inl ⟨_, rfl⟩
  · split
    · exact .inr ⟨_, rfl⟩
    · exact .inl ⟨_, rfl⟩

/-- Everything a host memory write can do (R62). -/
theorem State.hostPoke_cases (s : State) (m : Mem) (a : Nat) (v : Byte) :
    s.hostPoke m a v = s ∨ (s.st ≠ .running ∧ a < s.params.size m ∧ s.hostPoke m a v = s.poke m a v) := by
  unfold State.hostPoke
  split
  · exact .inl rfl
  · next h =>
    rw [not_or] at h
    exact .inr ⟨h.1, by omega, rfl⟩

/-- A host memory read writes the model's own fields only (R62). -/
theorem State.hostPeek_cases (s : State) (m : Mem) (a : Nat) :
    (∃ x, s.hostPeek m a = s.answer x) ∨ (∃ x, s.hostPeek m a = s.answerDraw x) := by
  unfold State.hostPeek
  split
  · exact .inr ⟨_, rfl⟩
  · exact .inl ⟨_, rfl⟩

/-! ### Turns and steps -/

/-- Everything the CLEAR step can do (R186). -/
theorem State.clearStep_cases {s t : State} (h : s.clearStep = .next t) :
    s.cap.toNat ≤ s.params.bufSize
    ∧ t = { s with frm := s.frm.store (List.replicate s.cap.toNat 0x00#8) 0 }.finish := by
  unfold State.clearStep at h
  split at h
  · cases h
  · injection h with h; exact ⟨by omega, h.symm⟩

/-- Everything the fetch can answer (R100, R140, R202). -/
theorem State.fetch_cases (s : State) :
    (∃ i rest, decode s.fetchCode = .command i rest ∧ s.fetch = .run i)
    ∨ (decode s.fetchCode = .inputOverrun ∧ s.params.size s.phase.input < s.inLen
        ∧ s.fetch = .effect (.fault .outsideMemory))
    ∨ (decode s.fetchCode = .inputOverrun ∧ s.inLen ≤ s.params.size s.phase.input
        ∧ s.fetch = .effect (.next (s.raise .inputOverrun))) := by
  unfold State.fetch
  split
  · next i rest h => exact .inl ⟨i, rest, h, rfl⟩
  · next h =>
    split
    · next h' => exact .inr (.inl ⟨h, h', rfl⟩)
    · next h' => exact .inr (.inr ⟨h, by omega, rfl⟩)

/-- Everything the engine's turn can do (R100, R140, R191, R217). -/
theorem State.engineAction_cases (s : State) :
    (s.st ≠ .running ∧ s.engineAction = .effect (.next s))
    ∨ (s.st = .running ∧ s.job = jobClear ∧ s.engineAction = .effect s.clearStep)
    ∨ (s.st = .running ∧ s.job ≠ jobClear ∧ s.phase = .lcw ∧ s.dp = s.cap
        ∧ s.engineAction = .effect (.next (s.lcwTerminate true)))
    ∨ (s.st = .running ∧ s.job ≠ jobClear ∧ (s.phase = .lcw → s.dp ≠ s.cap) ∧ s.engineAction = s.fetch) := by
  unfold State.engineAction
  split
  · exact .inl ⟨‹_›, rfl⟩
  · next h1 =>
    have h1 : s.st = .running := by simpa using h1
    split
    · exact .inr (.inl ⟨h1, ‹_›, rfl⟩)
    · next h2 =>
      split
      · next hp =>
        unfold State.lcwFetch
        split
        · exact .inr (.inr (.inl ⟨h1, h2, hp, ‹_›, rfl⟩))
        · exact .inr (.inr (.inr ⟨h1, h2, fun _ => ‹_›, rfl⟩))
      · next hp => exact .inr (.inr (.inr ⟨h1, h2, fun h => by simp [hp] at h, rfl⟩))

/-- Everything a host's turn can do (R180). -/
theorem State.hostAction_cases (s : State) (a : HostAction) :
    (∃ off x, a = .regWrite off x ∧ regAt off = some .ctrl ∧ s.hostAction a = .run (decodeCtrl x))
    ∨ (∃ off x r, a = .regWrite off x ∧ regAt off = some r ∧ r ≠ .ctrl ∧ s.hostAction a = .effect (.next (s.writeReg r x)))
    ∨ (∃ off x, a = .regWrite off x ∧ regAt off = none ∧ s.hostAction a = .effect (.next s))
    ∨ (∃ off, a = .regRead off ∧ s.hostAction a = .effect (.next (s.readReg off)))
    ∨ (∃ m x v, a = .memWrite m x v ∧ s.hostAction a = .effect (.next (s.hostPoke m x v)))
    ∨ (∃ m x, a = .memRead m x ∧ s.hostAction a = .effect (.next (s.hostPeek m x))) := by
  cases a with
  | regWrite off x =>
    cases hr : regAt off with
    | none => exact .inr (.inr (.inl ⟨off, x, rfl, hr, by simp [State.hostAction, hr]⟩))
    | some r =>
      by_cases hc : r = .ctrl
      · subst hc; exact .inl ⟨off, x, rfl, hr, by simp [State.hostAction, hr]⟩
      · refine .inr (.inl ⟨off, x, r, rfl, hr, hc, ?_⟩)
        cases r <;> first | exact absurd rfl hc | simp [State.hostAction, hr]
  | regRead off => exact .inr (.inr (.inr (.inl ⟨off, rfl, rfl⟩)))
  | memWrite m x v => exact .inr (.inr (.inr (.inr (.inl ⟨m, x, v, rfl, rfl⟩))))
  | memRead m x => exact .inr (.inr (.inr (.inr (.inr ⟨m, x, rfl, rfl⟩))))

/-- Everything a step can do: it runs an instruction, or it has an effect that is none. -/
theorem step_cases {s t : State} (h : step s = .next t) :
    (∃ i, s.nextAction = .run i ∧ exec i s.popTurn = .next t) ∨ s.nextAction = .effect (.next t) := by
  unfold step at h
  split at h
  · next i hi => exact .inl ⟨i, hi, h⟩
  · next o ho => subst h; exact .inr ho

/-- A step of a state that does not hold the reserved cause is its next turn's (U9). -/
theorem State.nextAction_of_legal {s : State} (h : s.cause ≠ .illegalCommand) :
    s.nextAction = s.popTurn.turnAction s.nextTurn := if_neg h

theorem step_of_run {s : State} {i : Instr} (h : s.nextAction = .run i) : step s = exec i s.popTurn := by
  simp [step, h]

theorem step_of_effect {s : State} {o : Host.Outcome State Fault Refusal} (h : s.nextAction = .effect o) : step s = o := by
  simp [step, h]

/-! ### The host's use of a job's outputs (R208) -/

/-- A frame is emitted only from a job that ended DONE, and it is FRM[0 .. CAP-1]. -/
theorem State.frameOut_eq_some (s : State) (frame : List Byte) :
    s.frameOut = some frame ↔ s.st = .done ∧ frame = s.peekRange .frm 0 s.cap.toNat := by
  rw [State.frameOut]
  split <;> simp_all [eq_comm]

/-- No frame is emitted after a fault. -/
@[simp] theorem State.frameOut_raise (s : State) (f : Cause) : (s.raise f).frameOut = none := rfl

@[simp] theorem playSteps_zero (s : State) : playSteps 0 s = some s := rfl

theorem playSteps_succ {s t : State} (n : Nat) (h : step s = .next t) : playSteps (n + 1) s = playSteps n t := by
  rw [playSteps, h]

theorem State.play_nil (s : State) : s.play [] = some { s with turns := [] } := rfl

/-- One run that faults, or does not end DONE, fails the whole decode. -/
theorem State.decodeRuns_eq_none {s t : State} {cap : Word} {rel : Bool} {run : List Byte} (runs : List (List Byte))
    (h : s.play (frameTurns cap rel run) = some t) (hst : t.st ≠ .done) : State.decodeRuns cap rel (run :: runs) s = none := by
  simp [State.decodeRuns, h, State.frameOut, hst]

end Sys2Proof.Machine
end

