-- ==== Sys2Proof/Laws/PerInstr.lean ====
section
/-!
SUPPORT. Facts about every instruction as syntax, one lemma per constructor. `EncodedLength`: a well-formed command has as many
encoded bytes as its SP advance (30_encoding.md R83, R86), and that is from 1 to 64 bytes in LCW and from 1 to 16386 in XD (R80); a
control operation has none.
-/

namespace Sys2Proof.Laws.EncodedLength

/-- The longest command of a mode (R80). -/
def longest : Mode → Nat
  | .lcw => 64
  | .xd => 16386
  | .ctrl => 0

/-- The family's statement. -/
def Statement (i : Instr) : Prop :=
  i.wf = true → i.bytes.length = i.length ∧ i.length ≤ longest i.mode ∧ (i.mode ≠ .ctrl → 1 ≤ i.length)

theorem lcwRel (c : BitVec 3) (d : BitVec 12) : Statement (.lcwRel c d) := fun _ => ⟨rfl, Nat.le_of_ble_eq_true rfl, fun _ => Nat.le_of_ble_eq_true rfl⟩
theorem lcwEnd : Statement .lcwEnd := fun _ => ⟨rfl, Nat.le_of_ble_eq_true rfl, fun _ => Nat.le_of_ble_eq_true rfl⟩
theorem lcwLit (payload : List Byte) : Statement (.lcwLit payload) := fun h => by
  simp only [Instr.wf, Bool.and_eq_true, decide_eq_true_eq] at h
  simp [Instr.bytes, Instr.length, longest, Instr.mode]; omega
theorem lcwAbs (c : BitVec 6) (p : Half) : Statement (.lcwAbs c p) := fun _ => ⟨rfl, Nat.le_of_ble_eq_true rfl, fun _ => Nat.le_of_ble_eq_true rfl⟩
theorem lcwFill (n : Half) (v : Byte) : Statement (.lcwFill n v) := fun _ => ⟨rfl, Nat.le_of_ble_eq_true rfl, fun _ => Nat.le_of_ble_eq_true rfl⟩
theorem lcwAbsl (n p : Half) : Statement (.lcwAbsl n p) := fun _ => ⟨rfl, Nat.le_of_ble_eq_true rfl, fun _ => Nat.le_of_ble_eq_true rfl⟩
theorem xdFill (n v : Byte) : Statement (.xdFill n v) := fun _ => ⟨rfl, Nat.le_of_ble_eq_true rfl, fun _ => Nat.le_of_ble_eq_true rfl⟩
theorem xdXor (payload : List Byte) : Statement (.xdXor payload) := fun h => by
  simp only [Instr.wf, Bool.and_eq_true, decide_eq_true_eq] at h
  simp [Instr.bytes, Instr.length, longest, Instr.mode]; omega
theorem xdSkip (n : BitVec 7) : Statement (.xdSkip n) := fun _ => ⟨rfl, Nat.le_of_ble_eq_true rfl, fun _ => Nat.le_of_ble_eq_true rfl⟩
theorem xdEnd : Statement .xdEnd := fun _ => ⟨rfl, Nat.le_of_ble_eq_true rfl, fun _ => Nat.le_of_ble_eq_true rfl⟩
theorem xdSkipl (n : BitVec 15) : Statement (.xdSkipl n) := fun _ => ⟨rfl, Nat.le_of_ble_eq_true rfl, fun _ => Nat.le_of_ble_eq_true rfl⟩
theorem xdXorl (payload : List Byte) : Statement (.xdXorl payload) := fun h => by
  simp only [Instr.wf, decide_eq_true_eq] at h
  simp [Instr.bytes, Instr.length, longest, Instr.mode, halfBytes]; omega
theorem xdFilll (n : BitVec 14) (v : Byte) : Statement (.xdFilll n v) := fun _ => ⟨rfl, Nat.le_of_ble_eq_true rfl, fun _ => Nat.le_of_ble_eq_true rfl⟩
theorem ctrlNop (rel : Bool) : Statement (.ctrlNop rel) := fun _ => ⟨rfl, Nat.le_refl 0, fun h => absurd rfl h⟩
theorem ctrlStartLcw (rel : Bool) : Statement (.ctrlStartLcw rel) := fun _ => ⟨rfl, Nat.le_refl 0, fun h => absurd rfl h⟩
theorem ctrlStartXd (rel : Bool) : Statement (.ctrlStartXd rel) := fun _ => ⟨rfl, Nat.le_refl 0, fun h => absurd rfl h⟩
theorem ctrlStartFrame (rel : Bool) : Statement (.ctrlStartFrame rel) := fun _ => ⟨rfl, Nat.le_refl 0, fun h => absurd rfl h⟩
theorem ctrlClearFrm (rel : Bool) : Statement (.ctrlClearFrm rel) := fun _ => ⟨rfl, Nat.le_refl 0, fun h => absurd rfl h⟩
theorem ctrlReserved (op : BitVec 3) (rel : Bool) : Statement (.ctrlReserved op rel) :=
  fun _ => ⟨rfl, Nat.le_refl 0, fun h => absurd rfl h⟩

end Sys2Proof.Laws.EncodedLength
end

