-- ==== Sys2Proof/Machine/AsmText.lean ====
section
/-!
DEFINITION. The text of the assembler (30_encoding.md R91): one command a line, numbers decimal or `0x` hexadecimal, `;` starts a
comment, operands separated by commas. Text is a list of characters. What R91 leaves open of the text is the model's
choice (DESIGN CHOICE, log 16): blanks, empty lines, the case of letters, carriage returns, wrong lines.
-/

namespace Sys2Proof.Machine

/-- The parts of a list between occurrences of `c`; always at least one part. -/
def splitAt (c : Char) : List Char → List (List Char)
  | [] => [[]]
  | x :: xs =>
    if x = c then [] :: splitAt c xs
    else
      match splitAt c xs with
      | part :: parts => (x :: part) :: parts
      | [] => [[x]]

/-- A blank: a space, a tab or a carriage return, so that a line ended by a carriage return and a line feed reads as without the carriage
return (DESIGN CHOICE, log 16: R91 names no blanks). -/
def isBlank (c : Char) : Bool := c == ' ' || c == '\t' || c == '\r'

/-- The text without blanks at its ends. -/
def trimText (cs : List Char) : List Char := ((cs.dropWhile isBlank).reverse.dropWhile isBlank).reverse

/-- The value of a digit in a base up to 16. A hexadecimal digit may be of either case (DESIGN CHOICE, log 16: R91 does not say). -/
def digitValue (base : Nat) (c : Char) : Option Nat :=
  let v :=
    if '0'.toNat ≤ c.toNat ∧ c.toNat ≤ '9'.toNat then c.toNat - '0'.toNat
    else if 'a'.toNat ≤ c.toNat ∧ c.toNat ≤ 'f'.toNat then c.toNat - 'a'.toNat + 10
    else if 'A'.toNat ≤ c.toNat ∧ c.toNat ≤ 'F'.toNat then c.toNat - 'A'.toNat + 10
    else 16
  if v < base then some v else none

/-- Digits after the value `acc`. -/
def digitsFrom (base acc : Nat) : List Char → Option Nat
  | [] => some acc
  | c :: cs =>
    match digitValue base c with
    | some v => digitsFrom base (acc * base + v) cs
    | none => none

/-- A decimal or `0x` hexadecimal number (R91): the `x` is lower-case as R91 writes it, at least one digit follows, and zeros may lead
(DESIGN CHOICE, log 16). -/
def numberOf : List Char → Option Nat
  | [] => none
  | ['0', 'x'] => none
  | '0' :: 'x' :: ds => digitsFrom 16 0 ds
  | ds => digitsFrom 10 0 ds

/-- The operands after a mnemonic: none, or numbers separated by commas, with blanks around each (log 16). -/
def operandsOf (cs : List Char) : Option (List Nat) :=
  match trimText cs with
  | [] => some []
  | text => (splitAt ',' text).mapM (fun part => numberOf (trimText part))

/-- A mnemonic with its operands as a line (R91, R92). A mnemonic is in capitals as R91 writes it; an unknown one, or a wrong number of
operands, is an assembly error (log 16). -/
def lineOf (name : List Char) (ops : List Nat) : Option AsmLine :=
  if name = ['L', 'C', 'W', '.', 'L', 'I', 'T'] then some (.lcwLit ops)
  else if name = ['L', 'C', 'W', '.', 'L', 'I', 'T', 'S'] then some (.lcwLits ops)
  else if name = ['X', 'D', '.', 'X', 'O', 'R'] then some (.xdXor ops)
  else if name = ['X', 'D', '.', 'X', 'O', 'R', 'L'] then some (.xdXorl ops)
  else if name = ['X', 'D', '.', 'X', 'O', 'R', 'N'] then some (.xdXorn ops)
  else
    match ops with
    | [] =>
      if name = ['L', 'C', 'W', '.', 'E', 'N', 'D'] then some .lcwEnd
      else if name = ['X', 'D', '.', 'E', 'N', 'D'] then some .xdEnd
      else none
    | [n] =>
      if name = ['X', 'D', '.', 'S', 'K', 'I', 'P'] then some (.xdSkip n)
      else if name = ['X', 'D', '.', 'S', 'K', 'I', 'P', 'L'] then some (.xdSkipl n)
      else if name = ['X', 'D', '.', 'S', 'K', 'I', 'P', 'N'] then some (.xdSkipn n)
      else none
    | [n, v] =>
      if name = ['L', 'C', 'W', '.', 'R', 'E', 'L'] then some (.lcwRel n v)
      else if name = ['L', 'C', 'W', '.', 'A', 'B', 'S'] then some (.lcwAbs n v)
      else if name = ['L', 'C', 'W', '.', 'F', 'I', 'L', 'L'] then some (.lcwFill n v)
      else if name = ['L', 'C', 'W', '.', 'A', 'B', 'S', 'L'] then some (.lcwAbsl n v)
      else if name = ['L', 'C', 'W', '.', 'C', 'O', 'P', 'Y'] then some (.lcwCopy n v)
      else if name = ['L', 'C', 'W', '.', 'R', 'U', 'N'] then some (.lcwRun n v)
      else if name = ['X', 'D', '.', 'F', 'I', 'L', 'L'] then some (.xdFill n v)
      else if name = ['X', 'D', '.', 'F', 'I', 'L', 'L', 'L'] then some (.xdFilll n v)
      else if name = ['X', 'D', '.', 'F', 'I', 'L', 'L', 'N'] then some (.xdFilln n v)
      else none
    | _ => none

/-- One line of text: nothing, or one command; `none` is an assembly error. -/
def readLine (cs : List Char) : Option (List AsmLine) :=
  match trimText (cs.takeWhile (fun c => c != ';')) with
  | [] => some []
  | text =>
    match operandsOf (text.dropWhile (fun c => !isBlank c)) with
    | some ops => (lineOf (text.takeWhile (fun c => !isBlank c)) ops).map (fun l => [l])
    | none => none

/-- The lines of a text. -/
def readProgram (cs : List Char) : Option (List AsmLine) := ((splitAt '\n' cs).mapM readLine).map List.flatten

/-- The bytes of a text of commands (R91, R92). -/
def assembleText (rel : Bool) (cs : List Char) : Option (List Byte) := (readProgram cs).bind (assemble rel)

end Sys2Proof.Machine
end

