-- ==== Sys2Proof/Tests/Slice0.lean ====
section
/-!
SUPPORT. The model's own tests. Expected results are those of the spec: the tables of 30_encoding.md, the vectors and programs of
95_test_vectors.md (named L<n>, M<n>, X<n>, C<n>, P<n>) and the examples of the rules; each test is one step or one decoding. The
`witness_` theorems show states and operands that meet a statement's hypotheses.
-/

namespace Sys2Proof.Tests

open Sys2Proof.Machine

/-! ### WellFormed: each check refuses an ill-formed term -/

theorem test_wf_refuses_empty_lit : Instr.wf (.lcwLit []) = false := by decide
theorem test_wf_refuses_lit_of_64 : Instr.wf (.lcwLit (List.replicate 64 0#8)) = false := by decide
theorem test_wf_refuses_abs_0x3E : Instr.wf (.lcwAbs 0x3E#6 0#16) = false := by decide
theorem test_wf_refuses_empty_xor : Instr.wf (.xdXor []) = false := by decide
theorem test_wf_refuses_xor_of_128 : Instr.wf (.xdXor (List.replicate 128 0#8)) = false := by
  rw [Instr.wf, List.length_replicate]; decide
theorem test_wf_refuses_skip_0 : Instr.wf (.xdSkip 0#7) = false := by decide
theorem test_wf_refuses_skipl_0 : Instr.wf (.xdSkipl 0#15) = false := by decide
theorem test_wf_refuses_xorl_of_16384 : Instr.wf (.xdXorl (List.replicate 16384 0#8)) = false := by
  rw [Instr.wf, List.length_replicate]; decide
theorem test_wf_refuses_reserved_4 : Instr.wf (.ctrlReserved 4#3 false) = false := by decide

/-! ### Decoding: words written out from the tables R82, R84, R85, R90 -/

theorem test_decode_rel : decode (.lcw [0b01111010#8, 0b00110100#8, 9#8]) = .command (.lcwRel 7#3 0xA34#12) [9#8] := by decide
theorem test_decode_lcw_end : decode (.lcw [0b10000000#8]) = .command .lcwEnd [] := by decide
theorem test_decode_lit : decode (.lcw [0b10000010#8, 7#8, 8#8]) = .command (.lcwLit [7#8, 8#8]) [] := by decide
theorem test_decode_abs : decode (.lcw [0b11111101#8, 0x34#8, 0x12#8]) = .command (.lcwAbs 0x3D#6 0x1234#16) [] := by decide
theorem test_decode_fill : decode (.lcw [0xFE#8, 0x34#8, 0x12#8, 0x7A#8]) = .command (.lcwFill 0x1234#16 0x7A#8) [] := by
  decide
theorem test_decode_absl : decode (.lcw [0xFF#8, 0x34#8, 0x12#8, 0x78#8, 0x56#8])
    = .command (.lcwAbsl 0x1234#16 0x5678#16) [] := by decide
theorem test_decode_xd_fill : decode (.xd [0x00#8, 3#8, 0xFF#8]) = .command (.xdFill 3#8 0xFF#8) [] := by decide
theorem test_decode_xor : decode (.xd [0b00000010#8, 7#8, 8#8]) = .command (.xdXor [7#8, 8#8]) [] := by decide
theorem test_decode_skip : decode (.xd [0b10000101#8]) = .command (.xdSkip 5#7) [] := by decide
theorem test_decode_xd_end : decode (.xd [0x80#8, 0x00#8, 0x00#8]) = .command .xdEnd [] := by decide
theorem test_decode_skipl : decode (.xd [0x80#8, 0x2C#8, 0b00000001#8]) = .command (.xdSkipl 300#15) [] := by decide
theorem test_decode_xorl : decode (.xd [0x80#8, 0x02#8, 0b10000000#8, 0xAA#8, 0xBB#8])
    = .command (.xdXorl [0xAA#8, 0xBB#8]) [] := by decide
theorem test_decode_filll : decode (.xd [0x80#8, 0x2C#8, 0b11000001#8, 1#8]) = .command (.xdFilll 300#14 1#8) [] := by decide
theorem test_decode_ctrl : [0x000#32, 0x101#32, 0x002#32, 0x103#32, 0x004#32, 0x107#32].map decodeCtrl
    = [.ctrlNop false, .ctrlStartLcw true, .ctrlStartXd false, .ctrlStartFrame true, .ctrlClearFrm false,
       .ctrlReserved 7#3 true] := by decide
/-- R23: the reserved bits of CTRL do not count. -/
theorem test_decode_ctrl_reserved_bits : decodeCtrl 0xFFFFFEF9#32 = .ctrlStartLcw false := by decide
theorem test_decode_refuses_truncated : decode (.xd [0x80#8, 0x05#8]) = .inputOverrun := by decide

/-! ### The table's words through the probe (log 7) -/

theorem test_table_words : decodeTableWord 8 0x81 = some (.lcwLit [0#8]) ∧ decodeTableWord 24 0x800000 = some .xdEnd
    ∧ decodeTableWord 24 0x8000C0 = some (.xdFilll 0#14 0#8) ∧ decodeTableWord 8 4 = some (.ctrlClearFrm false) := by decide

/-- The next step runs the placed word: LCW.FILL of 0 from reset advances SP by 4. -/
theorem test_fetch_word_lcw : (stepOrStay (State.reset.withFetchWord 8 0xFE)).sp = 4#32 := by decide
theorem test_fetch_word_xd : (stepOrStay (State.reset.withFetchWord 24 0x800000)).st = .done := by decide
theorem test_fetch_word_ctrl : (stepOrStay (State.reset.withFetchWord 8 1)).st = .running := by decide

/-! ### Small states -/

/-- An LCW job in the middle: SRC holds `bs`, SCR holds `out` and DP stands after it. -/
def lcwAt (bs out : List Byte) (sp cap : Nat) (rel : Bool := false) : State :=
  { State.resetWith { srcSize := 256, bufSize := 256 } with
    rel := rel, st := .running, job := jobLcw, cap := BitVec.ofNat 32 cap, srcLen := BitVec.ofNat 32 bs.length,
    sp := BitVec.ofNat 32 sp, dp := BitVec.ofNat 32 out.length, src := Memory.image bs, scr := Memory.image out }

/-- An XD job in the middle: SCR holds the patch `bs`, FRM holds `frame`. -/
def xdAt (bs frame : List Byte) (sp dp cap : Nat) : State :=
  { State.resetWith { srcSize := 256, bufSize := 256 } with
    st := .running, job := jobXd, phase := .xd, cap := BitVec.ofNat 32 cap, scrLen := BitVec.ofNat 32 bs.length,
    sp := BitVec.ofNat 32 sp, dp := BitVec.ofNat 32 dp, scr := Memory.image bs, frm := Memory.image frame }

/-- A state with one host turn to come. -/
def withHost (s : State) (a : HostAction) : State := { s with turns := [.host a] }

/-- The status words a test looks at: STATUS, CAUSE, SP, DP. -/
def view (s : State) : Nat × Nat × Nat × Nat := (s.statusWord.toNat, s.causeWord.toNat, s.sp.toNat, s.dp.toNat)

/-! ### LCW steps -/

/-- P1, the step at SP 4: an overlapping copy. -/
theorem test_rel_overlap : (stepOrStay (lcwAt [0x83, 0x41, 0x42, 0x43, 0x20, 0x03] [0x41, 0x42, 0x43] 4 24)).scr
    = Memory.image [0x41, 0x42, 0x43, 0x41, 0x42, 0x43, 0x41, 0x42] := by decide
/-- L5: distance 0 faults. -/
theorem test_rel_distance_0 : view (stepOrStay (lcwAt [0x81, 0x41, 0x00, 0x00] [0x41] 2 8)) = (0x13, 2, 2, 1) := by decide
/-- L2's last step. -/
theorem test_lcw_end : view (stepOrStay (lcwAt [0x83, 0x41, 0x42, 0x43, 0x80] [0x41, 0x42, 0x43] 4 8)) = (0x12, 0, 5, 3) := by
  decide
/-- R188: in a FRAME job the phase passes to XD. -/
theorem test_lcw_end_frame : view (stepOrStay { lcwAt [0x80] [0x41] 0 8 with job := jobFrame }) = (0x35, 0, 0, 0) := by decide
/-- R106's example. -/
theorem test_lit : (stepOrStay (lcwAt [0x82, 0xFF, 0x00] [] 0 8)).scr = Memory.image [0xFF, 0x00] := by decide
/-- L17: over CAP nothing is written. -/
theorem test_lit_capacity : view (stepOrStay (lcwAt [0x83, 0x41, 0x42, 0x43] [] 0 2)) = (0x13, 3, 0, 0) := by decide
/-- R108's example. -/
theorem test_abs : (stepOrStay (lcwAt [0xC1, 0x00, 0x00] [0x41, 0x42] 0 8)).scr
    = Memory.image [0x41, 0x42, 0x41, 0x42, 0x41, 0x42] := by decide
/-- M1: the same in relative mode. -/
theorem test_abs_relative : view (stepOrStay (lcwAt [0xC1, 0x02, 0x00] [0x41, 0x42] 0 8 true)) = (0x11, 0, 3, 6) := by decide
/-- R109's example. -/
theorem test_fill : (stepOrStay (lcwAt [0xFE, 0x05, 0x00, 0x7A] [] 0 5)).scr = Memory.image (List.replicate 5 0x7A) := by decide
/-- L21: truncated. -/
theorem test_fill_truncated : view (stepOrStay (lcwAt [0xFE, 0x05, 0x00] [] 0 8)) = (0x13, 1, 0, 0) := by decide
/-- R110's example. -/
theorem test_absl : (stepOrStay (lcwAt [0xFF, 0x03, 0x00, 0x01, 0x00] [0x10, 0x20, 0x30, 0x40] 0 16)).scr
    = Memory.image [0x10, 0x20, 0x30, 0x40, 0x20, 0x30, 0x40] := by decide
/-- L15: count 0 with a source that is not earlier. -/
theorem test_absl_count_0 : view (stepOrStay (lcwAt [0x81, 0x10, 0xFF, 0, 0, 5, 0, 0x80] [0x10] 2 4)) = (0x13, 2, 2, 1) := by
  decide
/-- L10's last step: the full buffer ends the phase. -/
theorem test_full : view (stepOrStay (lcwAt [0xFE, 0x05, 0x00, 0x7A] [1, 2, 3, 4, 5] 4 5)) = (0x1A, 0, 4, 5) := by decide
/-- R205's example: INPUT_OVERRUN before BACKREF_RANGE before CAPACITY (L7b, L7). -/
theorem test_priority : view (stepOrStay (lcwAt [0x3F] [] 0 2)) = (0x13, 1, 0, 0)
    ∧ view (stepOrStay (lcwAt [0x3F, 0xFF] [] 0 2)) = (0x13, 2, 0, 0) := by decide

/-! ### XD steps -/

/-- R146's example. -/
theorem test_xd_fill : (stepOrStay (xdAt [0x00, 0x03, 0xFF] [1, 2, 3, 4] 0 0 4)).frm = Memory.image [0xFE, 0xFD, 0xFC, 4] := by
  decide
/-- P2, the step at SP 1. -/
theorem test_xor : (stepOrStay (xdAt [0x82, 0x02, 0xFF, 0x0F] [0, 1, 2, 3, 4] 1 2 16)).frm
    = Memory.image [0, 1, 0xFD, 0x0C, 4] := by decide
/-- X9: over CAP. -/
theorem test_xor_capacity : view (stepOrStay (xdAt [0x03, 0x01, 0x02, 0x03] [0, 0] 0 0 2)) = (0x27, 3, 0, 0) := by decide
/-- R144's example, and X5. -/
theorem test_skip : view (stepOrStay (xdAt [0x85] [] 0 0 16)) = (0x25, 0, 1, 5)
    ∧ view (stepOrStay (xdAt [0x85] [] 0 0 4)) = (0x27, 3, 0, 0) := by decide
/-- X1. -/
theorem test_xd_end : view (stepOrStay (xdAt [0x80, 0x00, 0x00] [1, 2, 3, 4] 0 0 4)) = (0x26, 0, 3, 0) := by decide
/-- R148's example, and X16. -/
theorem test_skipl : view (stepOrStay (xdAt [0x80, 0x2C, 0x01] [] 0 0 320)) = (0x25, 0, 3, 300)
    ∧ view (stepOrStay (xdAt [0x80, 0x05, 0x00] [] 0 0 4)) = (0x27, 3, 0, 0) := by decide
/-- R149's example. -/
theorem test_xorl : (stepOrStay (xdAt [0x80, 0x02, 0x80, 0xAA, 0xBB] [0, 0] 0 0 4)).frm = Memory.image [0xAA, 0xBB] := by decide
/-- X13: count 0. -/
theorem test_xorl_count_0 : view (stepOrStay (xdAt [0x80, 0x00, 0x80] [5, 5] 0 0 2)) = (0x25, 0, 3, 0) := by decide
/-- P2, the step at SP 15. -/
theorem test_filll : (stepOrStay (xdAt [0x80, 0x02, 0xC0, 0xFF] [0x0D, 0x0E, 0x0F] 0 0 16)).frm
    = Memory.image [0xF2, 0xF1, 0x0F] := by decide
/-- X18: the value byte is missing. -/
theorem test_filll_truncated : view (stepOrStay (xdAt [0x80, 0x03, 0xC0] [0, 0] 0 0 4)) = (0x27, 1, 0, 0) := by decide
/-- X7's last step: no END. -/
theorem test_no_end : view (stepOrStay (xdAt [0x82] [0, 0] 1 2 4)) = (0x27, 1, 1, 2) := by decide

/-- X2's last step: with CAP 4 the patch has 6 bytes, and XD.END is read at SCR 3 to 5 (log 21). -/
theorem test_patch_longer_than_cap :
    view (stepOrStay (xdAt [0x82, 0x01, 0xF0, 0x80, 0x00, 0x00] [0x0F, 0x0F, 0xFF, 0x0F] 3 3 4)) = (0x26, 0, 6, 3) := by decide

/-- P4's last step, its job a FRAME job: the fault leaves the byte that the command before it patched (R204, R208). -/
def faulted : State := stepOrStay { xdAt [0x01, 0xAA, 0x84] [0xAA, 0, 0, 0] 2 1 4 with job := jobFrame }
theorem test_fault_keeps_patched_frame : view faulted = (0x37, 3, 2, 1) ∧ faulted.frm = Memory.image [0xAA, 0, 0, 0] := by decide
/-- R208: no frame is emitted, and the host restores the previous frame. -/
theorem test_fault_host_duty : faulted.frameOut = none
    ∧ (steps 4 { faulted with turns := restoreTurns [0, 0, 0, 0] }).frm = Memory.image [0, 0, 0, 0] := by decide

/-! ### Control operations and the host's ports -/

/-- A machine with 8-byte memories after reset. -/
def small : State := State.resetWith { srcSize := 8, bufSize := 8 }

/-- C1 and C2. -/
theorem test_reserved : view (stepOrStay (withHost small (.regWrite 0x00 7))) = (0x73, 5, 0, 0)
    ∧ (stepOrStay (withHost (small.reserved 7) (.regWrite 0x00 0x100))).rel = true := by decide
/-- R181's example: NOP while DONE stores REL and leaves STATE. -/
theorem test_nop : view (stepOrStay (withHost { small with st := .done, job := jobLcw } (.regWrite 0x00 0x100))) = (0x12, 0, 0, 0) := by
  decide
/-- C5: CONFIG. -/
theorem test_start_lcw : view (stepOrStay (withHost { small with cap := 9 } (.regWrite 0x00 1))) = (0x13, 5, 0, 0)
    ∧ view (stepOrStay (withHost { small with cap := 8 } (.regWrite 0x00 1))) = (0x11, 0, 0, 0) := by decide
/-- C8, and C7's start: XD does not check SRC_LEN. -/
theorem test_start_xd : view (stepOrStay (withHost { small with cap := 8, scrLen := 9 } (.regWrite 0x00 2))) = (0x27, 5, 0, 0)
    ∧ view (stepOrStay (withHost { small with cap := 8, srcLen := 9 } (.regWrite 0x00 2))) = (0x25, 0, 0, 0) := by decide
/-- C6. -/
theorem test_start_frame : view (stepOrStay (withHost { small with cap := 8, srcLen := 9 } (.regWrite 0x00 3))) = (0x33, 5, 0, 0) := by
  decide
/-- C4: the CLEAR step. -/
theorem test_clear : let s := { small with cap := 4, frm := Memory.image [0x11, 0x22, 0x33, 0x44, 0x55] }
    view (steps 2 (withHost s (.regWrite 0x00 4))) = (0x42, 0, 0, 0)
    ∧ (steps 2 (withHost s (.regWrite 0x00 4))).frm = Memory.image [0, 0, 0, 0, 0x55] := by decide
/-- C14: a register write while RUNNING is ignored. -/
theorem test_write_while_running : (stepOrStay (withHost (lcwAt [0x80] [] 0 8) (.regWrite 0x0C 99))).cap = 8 := by decide
/-- R22: a register write and read, a misaligned read, a reserved read. -/
theorem test_registers : (stepOrStay (withHost small (.regWrite 0x0C 5))).cap = 5
    ∧ (stepOrStay (withHost { small with dp := 7 } (.regRead 0x1C))).hostData = 7
    ∧ (stepOrStay (withHost { small with dp := 7 } (.regRead 0x1D))).hostData = 0
    ∧ (stepOrStay (withHost { small with hostData := 7 } (.regRead 0x20))).hostData = 0 := by decide
/-- R62: a memory byte written and read back; beyond the size the write is ignored. -/
theorem test_memory_port : (steps 2 { small with turns := [.host (.memWrite .src 7 0x5A), .host (.memRead .src 7)] }).hostData = 0x5A
    ∧ (stepOrStay (withHost small (.memWrite .src 8 0x5A))).src = [] := by decide
/-- R231: reset abandons a job. -/
theorem test_reset_turn : view (stepOrStay { lcwAt [0x80] [1] 0 8 with turns := [.reset] }) = (0, 0, 0, 0) := by decide
/-- U9: a state holding the reserved cause is refused. -/
theorem test_reserved_cause : step { small with cause := .illegalCommand } = .refused .reservedCause := by rfl

/-! ### The assembler (R91, R92) -/

/-- P1's fourth line, with a comment. -/
theorem test_text : assembleText false ['L', 'C', 'W', '.', 'A', 'B', 'S', ' ', '4', ',', ' ', '0', 'x', '1', ' ', ';', ' ', 'c']
    = some [0xC1, 0x01, 0x00] := by decide
/-- R91: an operand out of its range is an error; R92: SKIPN of 200. -/
theorem test_asm : assemble false [.lcwRel 11 1] = none ∧ assemble false [.xdSkipn 200] = some [0x80, 200, 0] := by decide
/-- P1's second line as a pseudo-instruction. -/
theorem test_copy : assemble false [.lcwLit [0x41, 0x42, 0x43], .lcwCopy 5 3] = some [0x83, 0x41, 0x42, 0x43, 0x20, 0x03] := by decide

end Sys2Proof.Tests
end

