-- ==== Sys2Proof/Tests/Witnesses.lean ====
section
/-!
SUPPORT. For each statement that has hypotheses, concrete states and operands that meet all of them together; where a statement has
clauses over one input, one for each clause at a boundary of its range.
-/

namespace Sys2Proof.Tests

open Sys2Proof.Machine

/-- A step answers a next state. -/
def goesOn (s : State) : Bool :=
  match step s with
  | .next _ => true
  | .fault _ => false
  | .refused _ => false

theorem step_of_goesOn {s : State} (h : goesOn s = true) : step s = .next (stepOrStay s) := by
  unfold goesOn at h
  unfold stepOrStay
  split at h <;> simp_all

/-- `exec` answers a next state. -/
def execGoesOn (i : Instr) (s : State) : Bool :=
  match exec i s with
  | .next _ => true
  | .fault _ => false
  | .refused _ => false

/-- The state `exec` answers. -/
def execNext (i : Instr) (s : State) : State :=
  match exec i s with
  | .next t => t
  | .fault _ => s
  | .refused _ => s

theorem exec_of_goesOn {i : Instr} {s : State} (h : execGoesOn i s = true) : exec i s = .next (execNext i s) := by
  unfold execGoesOn at h
  unfold execNext
  split at h <;> simp_all

/-- An LCW job in the middle of a literal, an XD job before an update, a CLEAR job, and a machine at rest. -/
def lcwState : State := lcwAt [0x81, 0x41, 0x82, 0x42, 0x43, 0x80] [0x41] 2 8
def xdState : State := xdAt [0x82, 0x01, 0xF0, 0x80, 0x00, 0x00] [0x0F, 0x0F, 0x0F, 0x0F] 1 2 4
def clearState : State := { small with st := .running, job := jobClear, cap := 4, frm := Memory.image [1, 2, 3, 4, 5] }
def doneState : State := { small with st := .done, job := jobLcw, cap := 8, srcLen := 8, scrLen := 8 }

/-! ### Reset and the invariant -/

theorem witness_ResetHoldsTheInvariant : Params.ok { srcSize := 1, bufSize := 1 } := by decide
theorem witness_EveryStepKeepsTheInvariant :
    (lcwState.Inv ∧ step lcwState = .next (stepOrStay lcwState)) ∧ (xdState.Inv ∧ step xdState = .next (stepOrStay xdState))
    ∧ (clearState.Inv ∧ step clearState = .next (stepOrStay clearState)) :=
  ⟨⟨by decide, step_of_goesOn (by decide)⟩, ⟨by decide, step_of_goesOn (by decide)⟩, ⟨by decide, step_of_goesOn (by decide)⟩⟩
theorem witness_ReachableStatesNeverStop : Reachable small ∧ lcwState.Inv ∧ xdState.Inv ∧ clearState.Inv :=
  ⟨.reset _ (by decide), by decide, by decide, by decide⟩
theorem witness_EngineStepKeepsCursorsInBounds : lcwState.Inv ∧ lcwState.st = .running ∧ lcwState.nextTurn = .engine
    ∧ step lcwState = .next (stepOrStay lcwState) :=
  ⟨by decide, by decide, by decide, step_of_goesOn (by decide)⟩

/-! ### Encoding -/

theorem witness_DecodeReadsBackEveryEncoding : Instr.wf (.lcwLit (List.replicate 63 1#8)) = true
    ∧ Instr.wf (.lcwAbs 0x3D#6 0#16) = true ∧ Instr.wf (.xdSkip 127#7) = true ∧ Instr.wf (.ctrlReserved 5#3 true) = true := by
  decide
theorem witness_DecodeAnswersOnlyEncodings : decode (.lcw [0x80#8, 1#8]) = .command .lcwEnd [1#8]
    ∧ decode (.xd [0xFF#8]) = .command (.xdSkip 127#7) [] ∧ decode (.ctrl 0x105#32) = .command (.ctrlReserved 5#3 true) [] := by
  decide
theorem witness_DecodedInstructionHasTheOneMatchingRow : decode (.xd [0x80#8, 1#8, 0#8]) = .command (.xdSkipl 1#15) [] := by decide
theorem witness_EveryLongEnoughStreamDecodes : 64 ≤ (List.replicate 64 0xBF#8).length ∧ 16386 ≤ (List.replicate 16386 0x80#8).length := by
  rw [List.length_replicate, List.length_replicate]; decide
theorem witness_CommandsTakeTheirLengths :
    decode (.lcw [0x00#8, 1#8]) = .command (.lcwRel 0#3 1#12) [] ∧ decode (.lcw [0x80#8]) = .command .lcwEnd []
    ∧ decode (.lcw [0x81#8, 1#8]) = .command (.lcwLit [1#8]) []
    ∧ decode (.lcw (0xBF#8 :: List.replicate 63 1#8)) = .command (.lcwLit (List.replicate 63 1#8)) []
    ∧ decode (.lcw [0xC0#8, 0#8, 0#8]) = .command (.lcwAbs 0#6 0#16) []
    ∧ decode (.lcw [0xFE#8, 0#8, 0#8, 0#8]) = .command (.lcwFill 0#16 0#8) []
    ∧ decode (.lcw [0xFF#8, 0#8, 0#8, 0#8, 0#8]) = .command (.lcwAbsl 0#16 0#16) []
    ∧ decode (.xd [0x00#8, 0#8, 0#8]) = .command (.xdFill 0#8 0#8) [] ∧ decode (.xd [0x01#8, 9#8]) = .command (.xdXor [9#8]) []
    ∧ decode (.xd [0x81#8]) = .command (.xdSkip 1#7) [] ∧ decode (.xd [0x80#8, 0#8, 0#8]) = .command .xdEnd []
    ∧ decode (.xd [0x80#8, 0xFF#8, 0x7F#8]) = .command (.xdSkipl 32767#15) []
    ∧ decode (.xd [0x80#8, 0#8, 0x80#8]) = .command (.xdXorl []) []
    ∧ decode (.xd [0x80#8, 0#8, 0xC0#8, 0#8]) = .command (.xdFilll 0#14 0#8) [] := by decide
/-- The boundaries of R81. -/
theorem witness_LcwCommandByteSelectsTheCommand :
    decode (.lcw [0x7F#8, 0#8]) = .command (.lcwRel 7#3 0xF00#12) [] ∧ decode (.lcw [0x80#8]) = .command .lcwEnd []
    ∧ decode (.lcw [0x81#8, 0#8]) = .command (.lcwLit [0#8]) []
    ∧ decode (.lcw (0xBF#8 :: List.replicate 63 1#8)) = .command (.lcwLit (List.replicate 63 1#8)) []
    ∧ decode (.lcw [0xC0#8, 0#8, 0#8]) = .command (.lcwAbs 0#6 0#16) []
    ∧ decode (.lcw [0xFD#8, 0#8, 0#8]) = .command (.lcwAbs 0x3D#6 0#16) []
    ∧ decode (.lcw [0xFE#8, 0#8, 0#8, 0#8]) = .command (.lcwFill 0#16 0#8) []
    ∧ decode (.lcw [0xFF#8, 0#8, 0#8, 0#8, 0#8]) = .command (.lcwAbsl 0#16 0#16) [] := by decide
/-- The boundaries of R84 and R85; for XD.XORL the least word. -/
theorem witness_XdCommandByteAndWordSelectTheCommand :
    decode (.xd [0x00#8, 0#8, 0#8]) = .command (.xdFill 0#8 0#8) []
    ∧ decode (.xd [0x01#8, 0#8]) = .command (.xdXor [0#8]) []
    ∧ decode (.xd (0x7F#8 :: List.replicate 127 1#8)) = .command (.xdXor (List.replicate 127 1#8)) []
    ∧ decode (.xd [0x81#8]) = .command (.xdSkip 1#7) [] ∧ decode (.xd [0xFF#8]) = .command (.xdSkip 127#7) []
    ∧ decode (.xd [0x80#8, 0#8, 0#8]) = .command .xdEnd [] ∧ decode (.xd [0x80#8, 1#8, 0#8]) = .command (.xdSkipl 1#15) []
    ∧ decode (.xd [0x80#8, 0xFF#8, 0x7F#8]) = .command (.xdSkipl 32767#15) []
    ∧ decode (.xd [0x80#8, 0#8, 0x80#8]) = .command (.xdXorl []) []
    ∧ decode (.xd [0x80#8, 0#8, 0xC0#8, 0#8]) = .command (.xdFilll 0#14 0#8) []
    ∧ decode (.xd [0x80#8, 0xFF#8, 0xFF#8, 0#8]) = .command (.xdFilll 16383#14 0#8) [] := by decide
theorem witness_OperandFieldsAreTheBytesNumbers : (0x7F#8).toNat < 0x80 ∧ 0xC0 ≤ (0xC0#8).toNat ∧ (0xC0#8).toNat ≤ 0xFD
    ∧ 0xC0 ≤ (0xFD#8).toNat ∧ (0xFD#8).toNat ≤ 0xFD ∧ 0x81 ≤ (0x81#8).toNat
    ∧ 1 = (1#8).toNat + 256 * (0#8).toNat ∧ (0xFF#8).toNat + 256 * (0x7F#8).toNat = 0x7FFF
    ∧ 0xC000 = (0#8).toNat + 256 * (0xC0#8).toNat ∧ (0xFF#8).toNat + 256 * (0xFF#8).toNat = 0xFFFF := by decide

/-! ### The step -/

theorem witness_StepRunsTheFetchedCommand :
    (lcwState.codecTurn ∧ (lcwState.phase = .lcw → lcwState.dp ≠ lcwState.cap)
      ∧ decode lcwState.fetchCode = .command (.lcwLit [0x42#8, 0x43#8]) [0x80#8])
    ∧ (xdState.codecTurn ∧ (xdState.phase = .lcw → xdState.dp ≠ xdState.cap)
      ∧ decode xdState.fetchCode = .command (.xdXor [0xF0#8]) [0x80#8, 0#8, 0#8]) := by decide
theorem witness_StepRunsTheControlWrite : let s := withHost doneState (.regWrite 0x00#6 1#32)
    s.cause ≠ .illegalCommand ∧ s.turns = .host (.regWrite 0x00#6 1#32) :: [] := by decide
theorem witness_CommandAtTheInputCursorRuns :
    lcwState.codecTurn ∧ (lcwState.phase = .lcw → lcwState.dp ≠ lcwState.cap) ∧ Instr.wf (.lcwLit [0x42#8, 0x43#8]) = true
    ∧ Instr.mode (.lcwLit [0x42#8, 0x43#8]) = .lcw ∧ lcwState.phase = .lcw
    ∧ lcwState.sp.toNat + Instr.length (.lcwLit [0x42#8, 0x43#8]) ≤ lcwState.inLen
    ∧ lcwState.inLen ≤ lcwState.params.size lcwState.phase.input
    ∧ lcwState.holds lcwState.phase.input lcwState.sp.toNat (Instr.bytes (.lcwLit [0x42#8, 0x43#8])) := by decide
/-- Both jobs that have an LCW phase. -/
theorem witness_FullBufferEndsTheLcwPhase : let s := lcwAt [0x80] [1, 2] 0 2
    (s.codecTurn ∧ s.phase = .lcw ∧ s.dp = s.cap) ∧ (State.codecTurn { s with job := jobFrame } ∧ s.job ≠ jobFrame) := by decide
/-- A fetch at the end of the input (k = 0), and a literal one byte short. -/
theorem witness_TruncatedCommandRaisesInputOverrun :
    (let s := lcwAt [0x81, 0x41] [0x41] 2 8
     s.codecTurn ∧ (s.phase = .lcw → s.dp ≠ s.cap) ∧ 0 < Instr.length .lcwEnd ∧ s.inLen = s.sp.toNat + 0
      ∧ s.inLen ≤ s.params.size s.phase.input ∧ s.holds s.phase.input s.sp.toNat ((Instr.bytes .lcwEnd).take 0))
    ∧ (let s := xdAt [0x80, 0x05] [] 0 0 4
     s.codecTurn ∧ (s.phase = .lcw → s.dp ≠ s.cap) ∧ Instr.wf (.xdSkipl 5#15) = true ∧ 2 < Instr.length (.xdSkipl 5#15)
      ∧ s.inLen = s.sp.toNat + 2 ∧ s.inLen ≤ s.params.size s.phase.input
      ∧ s.holds s.phase.input s.sp.toNat ((Instr.bytes (.xdSkipl 5#15)).take 2)) := by decide
theorem witness_ClearStepZeroesTheFrame : clearState.cause ≠ .illegalCommand ∧ clearState.nextTurn = .engine
    ∧ clearState.st = .running ∧ clearState.job = jobClear ∧ clearState.cap.toNat ≤ clearState.params.bufSize := by decide
theorem witness_EngineRestsUnlessRunning : doneState.cause ≠ .illegalCommand ∧ doneState.nextTurn = .engine
    ∧ doneState.st ≠ .running := by decide

/-! ### LCW commands -/

theorem witness_LcwLitCopiesItsPayload : lcwState.sp.toNat + 1 + [0x42#8, 0x43#8].length ≤ lcwState.srcLen.toNat
    ∧ lcwState.dp.toNat + [0x42#8, 0x43#8].length ≤ lcwState.cap.toNat ∧ lcwState.cap.toNat ≤ lcwState.params.bufSize := by decide
/-- Distance 1 and distance DP. -/
theorem witness_LcwRelRepeatsTheDistanceBack : let s := lcwAt [0x10, 0x03] [1, 2, 3] 0 7
    ∀ d ∈ [1#12, 3#12], s.sp.toNat + 2 ≤ s.srcLen.toNat ∧ 1 ≤ d.toNat ∧ d.toNat ≤ s.dp.toNat
      ∧ s.dp.toNat + ((1#3).toNat + 3) ≤ s.cap.toNat ∧ s.cap.toNat ≤ s.params.bufSize := by decide
/-- REL = 0, source 0; REL = 1, source DP - 1. -/
theorem witness_LcwAbsCopiesFromItsSource :
    let s := lcwAt [0xC1, 0x00, 0x00] [1, 2] 0 6
    (s.rel = false ∧ 0 = (0#16).toNat) ∧ 0 < s.dp.toNat
      ∧ s.sp.toNat + 3 ≤ s.srcLen.toNat ∧ s.dp.toNat + ((1#6).toNat + 3) ≤ s.cap.toNat ∧ s.cap.toNat ≤ s.params.bufSize := by
  decide
theorem witness_LcwAbsCopiesFromItsSource_relative :
    let s := lcwAt [0xC1, 0x01, 0x00] [1, 2] 0 6 true
    (s.rel = true ∧ 1 + (1#16).toNat = s.dp.toNat) ∧ 1 < s.dp.toNat
      ∧ s.sp.toNat + 3 ≤ s.srcLen.toNat ∧ s.dp.toNat + ((1#6).toNat + 3) ≤ s.cap.toNat ∧ s.cap.toNat ≤ s.params.bufSize := by
  decide
/-- An exact fill, and count 0. -/
theorem witness_LcwFillWritesARun : let s := lcwAt [0xFE, 0x05, 0x00, 0x7A] [] 0 5
    s.sp.toNat + 4 ≤ s.srcLen.toNat ∧ s.dp.toNat + (5#16).toNat ≤ s.cap.toNat ∧ s.cap.toNat ≤ s.params.bufSize := by
  decide
theorem witness_LcwFillWritesARun_none : let s := lcwAt [0xFE, 0x00, 0x00, 0x7A] [] 0 0
    s.sp.toNat + 4 ≤ s.srcLen.toNat ∧ s.dp.toNat + (0#16).toNat ≤ s.cap.toNat ∧ s.cap.toNat ≤ s.params.bufSize := by
  decide
/-- REL = 0, source DP - 1, count 4 to exactly CAP; then REL = 1, source 0, count 0. -/
theorem witness_LcwAbslCopiesFromItsSource :
    let s := lcwAt [0xFF, 0x04, 0x00, 0x01, 0x00] [1, 2] 0 6
    (s.rel = false ∧ 1 = (1#16).toNat) ∧ 1 < s.dp.toNat
      ∧ s.sp.toNat + 5 ≤ s.srcLen.toNat ∧ s.dp.toNat + (4#16).toNat ≤ s.cap.toNat ∧ s.cap.toNat ≤ s.params.bufSize := by
  decide
theorem witness_LcwAbslCopiesFromItsSource_relative :
    let s := lcwAt [0xFF, 0x00, 0x00, 0x02, 0x00] [1, 2] 0 6 true
    (s.rel = true ∧ 0 + (2#16).toNat = s.dp.toNat) ∧ 0 < s.dp.toNat
      ∧ s.sp.toNat + 5 ≤ s.srcLen.toNat ∧ s.dp.toNat + (0#16).toNat ≤ s.cap.toNat ∧ s.cap.toNat ≤ s.params.bufSize := by
  decide
theorem witness_LcwEndTerminatesThePhase : lcwState.job ≠ jobFrame ∧ State.job { lcwState with job := jobFrame } = jobFrame := by
  decide
/-- Each cause: a byte missing; a bad source (distance 0, distance beyond DP; position DP; in relative mode 0 and beyond DP); one byte
over CAP. -/
theorem witness_LcwCommandsRaiseInOrder :
    Instr.mode (.lcwRel 0#3 0#12) = .lcw
    ∧ (lcwAt [0x3F] [] 0 2).srcLen.toNat < (lcwAt [0x3F] [] 0 2).sp.toNat + Instr.length (.lcwRel 0#3 0#12)
    ∧ (let s := lcwAt [0x00, 0x00, 0, 0, 0] [1] 0 8
       s.sp.toNat + Instr.length (.lcwAbsl 0#16 1#16) ≤ s.srcLen.toNat ∧ ((0#12).toNat = 0) ∧ s.dp.toNat < (2#12).toNat
        ∧ (s.rel = false ∧ s.dp.toNat ≤ (1#16).toNat))
    ∧ (let s := lcwAt [0x00, 0x00, 0, 0, 0] [1] 0 8 true
       s.sp.toNat + Instr.length (.lcwAbsl 0#16 1#16) ≤ s.srcLen.toNat ∧ s.rel = true ∧ (0#16).toNat = 0 ∧ s.dp.toNat < (2#16).toNat)
    ∧ (let s := lcwAt [0xFE, 0x06, 0x00, 0x7A] [] 0 5
       s.sp.toNat + Instr.length (.lcwFill 6#16 0x7A#8) ≤ s.srcLen.toNat
        ∧ s.cap.toNat < s.dp.toNat + outputCount (.lcwFill 6#16 0x7A#8)) := by decide
theorem witness_LcwStepFrame : lcwState.Inv ∧ lcwState.codecTurn ∧ lcwState.phase = .lcw
    ∧ step lcwState = .next (stepOrStay lcwState) :=
  ⟨by decide, by decide, by decide, step_of_goesOn (by decide)⟩

/-! ### XD commands -/

/-- To exactly CAP. -/
theorem witness_XdSkipsMoveTheOutputCursor :
    (let s := xdAt [0x84] [] 0 0 4
     s.sp.toNat + 1 ≤ s.scrLen.toNat ∧ s.dp.toNat + (4#7).toNat ≤ s.cap.toNat)
    ∧ (let s := xdAt [0x80, 0x04, 0x00] [] 0 0 4
     s.sp.toNat + 3 ≤ s.scrLen.toNat ∧ s.dp.toNat + (4#15).toNat ≤ s.cap.toNat) := by decide
/-- Both forms, XD.XORL with no byte too. -/
theorem witness_XdXorsUpdateTheFrame :
    (xdState.sp.toNat + 1 + [0xF0#8].length ≤ xdState.scrLen.toNat ∧ xdState.dp.toNat + [0xF0#8].length ≤ xdState.cap.toNat
      ∧ xdState.cap.toNat ≤ xdState.params.bufSize)
    ∧ (let s := xdAt [0x80, 0x00, 0x80] [] 0 2 2
       s.sp.toNat + 3 + ([] : List Byte).length ≤ s.scrLen.toNat ∧ s.dp.toNat + ([] : List Byte).length ≤ s.cap.toNat
        ∧ s.cap.toNat ≤ s.params.bufSize) := by decide
theorem witness_XdFillsUpdateTheFrame :
    (let s := xdAt [0x00, 0x04, 0xFF] [1, 2, 3, 4] 0 0 4
     (4#8).toNat = 4 ∧ s.sp.toNat + 3 ≤ s.scrLen.toNat ∧ s.dp.toNat + 4 ≤ s.cap.toNat ∧ s.cap.toNat ≤ s.params.bufSize)
    ∧ (let s := xdAt [0x80, 0x00, 0xC0, 0x77] [5, 5] 0 0 2
     (0#14).toNat = 0 ∧ s.sp.toNat + 4 ≤ s.scrLen.toNat ∧ s.dp.toNat + 0 ≤ s.cap.toNat ∧ s.cap.toNat ≤ s.params.bufSize) := by decide
theorem witness_XdCommandsRaiseInOrder :
    (let s := xdAt [0x03, 0x01, 0x02] [] 0 0 4
     Instr.mode (.xdXor [1#8, 2#8, 3#8]) = .xd ∧ s.scrLen.toNat < s.sp.toNat + Instr.length (.xdXor [1#8, 2#8, 3#8]))
    ∧ (let s := xdAt [0x85] [] 0 0 4
     s.sp.toNat + Instr.length (.xdSkip 5#7) ≤ s.scrLen.toNat ∧ s.cap.toNat < s.dp.toNat + outputCount (.xdSkip 5#7)) := by decide
theorem witness_XdStepFrame : xdState.Inv ∧ xdState.codecTurn ∧ xdState.phase = .xd
    ∧ step xdState = .next (stepOrStay xdState) :=
  ⟨by decide, by decide, by decide, step_of_goesOn (by decide)⟩

/-! ### Faults -/

theorem witness_FaultingStepWritesNothing : let s := lcwAt [0xFE, 0x06, 0x00, 0x7A] [] 0 5
    s.cause ≠ .illegalCommand ∧ s.nextTurn = .engine ∧ s.st = .running ∧ step s = .next (stepOrStay s)
    ∧ (stepOrStay s).st = .fault ∧ (stepOrStay s).nextTurn = .engine :=
  ⟨by decide, by decide, by decide, step_of_goesOn (by decide), by decide, by decide⟩
/-- A command that completes, and one of each cause. -/
theorem witness_CommandsRaiseOnlyTheirCauses :
    (lcwState.cause = .none ∧ exec .lcwEnd lcwState = .next (execNext .lcwEnd lcwState))
    ∧ (execNext (.lcwFill 9#16 0#8) lcwState).cause = .capacity
    ∧ (execNext (.lcwRel 0#3 2#12) lcwState).cause = .backrefRange
    ∧ (execNext (.xdFill 0#8 0#8) lcwState).cause = .inputOverrun :=
  ⟨⟨by decide, exec_of_goesOn (by decide)⟩, by decide, by decide, by decide⟩
/-- A start that runs, reset, and a turn that leaves FAULT as it is. -/
theorem witness_FaultHoldsUntilAJobStarts :
    ∀ turn ∈ [Turn.host (.regWrite 0x00#6 1#32), Turn.host (.regWrite 0x00#6 4#32), Turn.reset, Turn.engine],
      let s : State := { small with st := .fault, job := jobLcw, cause := .capacity, turns := [turn] }
      s.st = .fault ∧ goesOn s = true := by decide

/-! ### Control operations -/

theorem witness_NopWritesOnlyRel : doneState.st ≠ .running := by decide
/-- Sizes that fit exactly. -/
theorem witness_StartsRunTheirJobs : doneState.st ≠ .running ∧ doneState.cap.toNat ≤ doneState.params.bufSize
    ∧ doneState.srcLen.toNat ≤ doneState.params.srcSize ∧ doneState.scrLen.toNat ≤ doneState.params.bufSize := by decide
/-- Sizes one byte too large. -/
theorem witness_StartsFaultOnBadConfigurations : doneState.st ≠ .running
    ∧ doneState.params.bufSize < (State.cap { doneState with cap := 9 }).toNat
    ∧ doneState.params.srcSize < (State.srcLen { doneState with srcLen := 9 }).toNat
    ∧ doneState.params.bufSize < (State.scrLen { doneState with scrLen := 9 }).toNat := by decide
theorem witness_ReservedOperationsFaultConfig : doneState.st ≠ .running
    ∧ exec (.ctrlReserved 7#3 false) doneState = .next (execNext (.ctrlReserved 7#3 false) doneState) :=
  ⟨by decide, exec_of_goesOn (by decide)⟩
theorem witness_ControlOperationsAreIgnoredWhileRunning : Instr.mode (.ctrlStartXd true) = .ctrl ∧ lcwState.st = .running := by decide

/-! ### The host's ports, reset, and what changes what -/

theorem witness_HostActionsWhileRunningChangeNothing :
    ∀ a ∈ [HostAction.regWrite 0x00#6 1#32, .regWrite 0x0C#6 1#32, .regRead 0x18#6, .memWrite .frm 0 1#8, .memRead .src 0],
      (withHost lcwState a).cause ≠ .illegalCommand ∧ (withHost lcwState a).st = .running
      ∧ (withHost lcwState a).nextTurn = .host a := by decide
/-- The last address, and the first one beyond. -/
theorem witness_HostMemoryWriteStoresOneByte : ∀ a ∈ [7, 8], let s := withHost doneState (.memWrite .scr a 1#8)
    s.cause ≠ .illegalCommand ∧ s.st ≠ .running ∧ s.nextTurn = .host (.memWrite .scr a 1#8) := by decide
theorem witness_HostMemoryReadAnswersTheByte : ∀ a ∈ [7, 8], let s := withHost doneState (.memRead .scr a)
    s.cause ≠ .illegalCommand ∧ s.st ≠ .running ∧ s.nextTurn = .host (.memRead .scr a) := by decide
theorem witness_StatusReadsItsFields : ∀ s ∈ [small, lcwState, xdState, doneState],
    (withHost s (.regRead 0x04#6)).cause ≠ .illegalCommand ∧ (withHost s (.regRead 0x04#6)).nextTurn = .host (.regRead 0x04#6) := by
  decide
/-- Every register, the first and last reserved offsets, and a misaligned one. -/
theorem witness_RegisterWindowReads :
    ∀ off ∈ [0x00#6, 0x04#6, 0x08#6, 0x0C#6, 0x10#6, 0x14#6, 0x18#6, 0x1C#6, 0x20#6, 0x3C#6, 0x01#6, 0x1F#6],
      (withHost doneState (.regRead off)).cause ≠ .illegalCommand ∧ (withHost doneState (.regRead off)).st ≠ .running
      ∧ (withHost doneState (.regRead off)).nextTurn = .host (.regRead off) := by decide
theorem witness_RegisterWindowWrites :
    ∀ off ∈ [0x04#6, 0x08#6, 0x0C#6, 0x10#6, 0x14#6, 0x18#6, 0x1C#6, 0x20#6, 0x3F#6],
      (withHost doneState (.regWrite off 5#32)).cause ≠ .illegalCommand ∧ (withHost doneState (.regWrite off 5#32)).st ≠ .running
      ∧ off.toNat ≠ 0x00 ∧ (withHost doneState (.regWrite off 5#32)).nextTurn = .host (.regWrite off 5#32) := by decide
theorem witness_ResetAbandonsTheJob : let s : State := { lcwState with turns := [.reset] }
    s.cause ≠ .illegalCommand ∧ s.nextTurn = .reset := by decide
theorem witness_MemoriesChangeOnlyByTheirWriters : step lcwState = .next (stepOrStay lcwState)
    ∧ step xdState = .next (stepOrStay xdState) ∧ step clearState = .next (stepOrStay clearState) :=
  ⟨step_of_goesOn (by decide), step_of_goesOn (by decide), step_of_goesOn (by decide)⟩
theorem witness_HostRegistersChangeOnlyByTheHost : let s := withHost doneState (.regWrite 0x0C#6 5#32)
    step s = .next (stepOrStay s) ∧ (stepOrStay s).cap ≠ s.cap :=
  ⟨step_of_goesOn (by decide), by decide⟩

/-! ### Whole jobs -/

/-- A fresh LCW job of one literal and LCW.END, a fresh XD job of "skip 3, XOR 0x0F, end" (S5), and a fresh FRAME and CLEAR job. -/
def lcwJob : State := lcwAt [0x82, 0x41, 0x42, 0x80] [] 0 8
def xdJob : State := xdAt [0x83, 0x01, 0x0F, 0x80, 0x00, 0x00] [0x10, 0x20, 0x30, 0x40] 0 0 4
def frameJob : State := { lcwJob with job := jobFrame }

theorem witness_HostTurnsDoNotDisturbARunningJob :
    let ts := [Turn.host (.regWrite 0x0C#6 0#32), .engine, .host (.memRead .scr 0)]
    lcwJob.Inv ∧ (∀ turn ∈ ts, turn ≠ .reset)
    ∧ (steps (ts.filter (fun turn => decide (turn = .engine))).length { lcwJob with turns := [] }).st = .running := by decide
/-- The jobs just started, and a CLEAR job. -/
theorem lcwJob_started : lcwJob.justStarted jobLcw := by decide
theorem xdJob_started : xdJob.justStarted jobXd := by decide
theorem frameJob_started : frameJob.justStarted jobFrame := by decide
theorem clearState_started : clearState.justStarted jobClear := by decide
theorem witness_EveryJobEndsWithinItsBound : lcwJob.justStarted jobLcw ∧ xdJob.justStarted jobXd ∧ frameJob.justStarted jobFrame
    ∧ clearState.justStarted jobClear :=
  ⟨lcwJob_started, xdJob_started, frameJob_started, clearState_started⟩
theorem witness_LcwResultIgnoresWhatScrHeld : let s' : State := { lcwJob with scr := Memory.image [9, 9, 9] }
    lcwJob.justStarted jobLcw ∧ s' = { lcwJob with scr := s'.scr } ∧ s'.scr ≠ lcwJob.scr := by decide
/-- With LCW.END. -/
theorem witness_LiteralStreamsRoundTrip :
    lcwJob.justStarted jobLcw ∧ [[0x41#8, 0x42#8]].flatten.length ≤ lcwJob.cap.toNat
      ∧ lcwJob.srcLen.toNat = (streamOf ([[0x41#8, 0x42#8]].map Instr.lcwLit ++ [.lcwEnd])).length
      ∧ lcwJob.holds .src 0 (streamOf ([[0x41#8, 0x42#8]].map Instr.lcwLit ++ [.lcwEnd])) :=
  ⟨lcwJob_started, by decide, by decide, by decide⟩
/-- Without LCW.END, when the pieces fill the buffer. -/
def fullJob : State := lcwAt [0x81, 0x41, 0x81, 0x42] [] 0 2
theorem fullJob_started : fullJob.justStarted jobLcw := by decide
theorem witness_LiteralStreamsRoundTrip_full :
    fullJob.justStarted jobLcw ∧ (∀ p ∈ [[0x41#8], [0x42#8]], 1 ≤ p.length ∧ p.length ≤ 63)
      ∧ [[0x41#8], [0x42#8]].flatten.length = fullJob.cap.toNat
      ∧ fullJob.srcLen.toNat = (streamOf ([[0x41#8], [0x42#8]].map Instr.lcwLit ++ [])).length
      ∧ fullJob.holds .src 0 (streamOf ([[0x41#8], [0x42#8]].map Instr.lcwLit ++ [])) :=
  ⟨fullJob_started, by decide, by decide, by decide, by decide⟩
/-- K = 3 (S5). -/
theorem witness_SkipThenXorPatchChangesOneByte :
    xdJob.justStarted jobXd ∧ 3 < xdJob.cap.toNat
      ∧ xdJob.scrLen.toNat = (streamOf (expandSkip 3 3 ++ [.xdXor [0x0F#8], .xdEnd])).length
      ∧ xdJob.holds .scr 0 (streamOf (expandSkip 3 3 ++ [.xdXor [0x0F#8], .xdEnd])) :=
  ⟨xdJob_started, by decide, by decide, by decide⟩
/-- K = 0. -/
def xdJobAtZero : State := xdAt [0x01, 0x0F, 0x80, 0x00, 0x00] [0x10, 0x20, 0x30, 0x40] 0 0 4
theorem xdJobAtZero_started : xdJobAtZero.justStarted jobXd := by decide
theorem witness_SkipThenXorPatchChangesOneByte_first :
    xdJobAtZero.justStarted jobXd ∧ 0 < xdJobAtZero.cap.toNat
      ∧ xdJobAtZero.scrLen.toNat = (streamOf (expandSkip 0 0 ++ [.xdXor [0x0F#8], .xdEnd])).length
      ∧ xdJobAtZero.holds .scr 0 (streamOf (expandSkip 0 0 ++ [.xdXor [0x0F#8], .xdEnd])) :=
  ⟨xdJobAtZero_started, by decide, by decide, by decide⟩
theorem witness_PatchAppliedTwiceRestoresTheFrame :
    xdJob.justStarted jobXd ∧ (steps 3 xdJob).st = .done
    ∧ exec (.ctrlStartXd false) (steps 3 xdJob) = .next (execNext (.ctrlStartXd false) (steps 3 xdJob))
    ∧ (steps 3 (execNext (.ctrlStartXd false) (steps 3 xdJob))).st = .done :=
  ⟨by decide, by decide, exec_of_goesOn (by decide), by decide⟩
/-- A FRAME job whose LCW phase faults, and one that ends in the XD phase (P4 without its skip). -/
theorem witness_FrameIsLcwThenXd :
    ∀ bs ∈ [[0x00#8, 0x00#8], [0x83#8, 0x80#8, 0x00#8, 0x00#8, 0x80#8]],
      let s : State := { State.resetWith { srcSize := 256, bufSize := 256 } with
        cap := 4, srcLen := BitVec.ofNat 32 bs.length, src := Memory.image bs }
      s.Inv ∧ s.engineOnly ∧ s.st ≠ .running ∧ execGoesOn (.ctrlStartFrame false) s = true
      ∧ (steps 4 (execNext (.ctrlStartFrame false) s)).ended := by decide
theorem witness_PseudoInstructionsCoverTheirOperands :
    expandCopy false 8 5 3 = some [.lcwRel 2#3 3#12] ∧ expandCopy false 5000 10 4095 = some [.lcwRel 7#3 0xFFF#12]
    ∧ expandCopy false 5000 10 4096 = some [.lcwAbs 7#6 904#16] ∧ expandCopy false 5000 64 5000 = some [.lcwAbs 61#6 0#16]
    ∧ expandCopy false 5000 65 5000 = some [.lcwAbsl 65#16 0#16] ∧ expandCopy true 8 2 8 = some [.lcwAbsl 2#16 8#16]
    ∧ expandCopy false 8 65535 1 = some [.lcwAbsl 0xFFFF#16 7#16]
    ∧ expandCopy false 8 65536 1 = none ∧ expandCopy false 65537 11 1 = none ∧ expandCopy false 8 5 0 = none
    ∧ expandCopy false 8 5 9 = none := by decide

end Sys2Proof.Tests
end

/-!
PROOFS. The state after reset (10_state.md R7, R39; 70_reset_and_hazards.md R230): no byte of a memory is listed, and the
invariant holds.
-/

namespace Sys2Proof.Machine

/-! ### The memories after reset -/

/-- A byte that nothing has written reads as the free value of this reset (R64, R230). -/
theorem State.peek_of_lookup_none {s : State} {m : Mem} {a : Nat} (h : Memory.lookup a (s.mem m) = none) :
    s.peek m a = Config.powerOnByte s.boot m a := by
  simp [State.peek_def, Memory.read, h]

@[simp] theorem State.resetWith_mem (p : Params) (m : Mem) : (State.resetWith p).mem m = [] := by
  cases m <;> rfl

/-! ### The parts of the invariant after reset -/

theorem State.resetWith_memoriesWf (p : Params) : (State.resetWith p).memoriesWf :=
  ⟨Memory.wf_nil p.srcSize, Memory.wf_nil p.bufSize, Memory.wf_nil p.bufSize⟩

/-- IDLE with JOB, CAUSE and the cursors 0 is one of the consistent combinations (R25, R39). -/
theorem State.resetWith_statusOk (p : Params) : (State.resetWith p).statusOk := by
  simp [State.statusOk, State.resetWith]

theorem State.resetWith_not_running (p : Params) : (State.resetWith p).st ≠ .running := by
  simp [State.resetWith]

/-- The state after reset is legal for all sizes R7 allows. -/
theorem State.resetWith_inv {p : Params} (hp : p.ok) : (State.resetWith p).Inv :=
  ⟨hp, State.resetWith_memoriesWf p, State.resetWith_statusOk p, fun hrun => absurd hrun (State.resetWith_not_running p)⟩

/-- The sizes of `State.reset` are among those R7 allows. -/
theorem Config.defaultParams_ok : Config.defaultParams.ok := by decide

/-- Settles O2: the invariant part by part, and the memories by R230's empty lists. -/
theorem resetHoldsTheInvariant : Obligations.ResetHoldsTheInvariant := by
  refine ⟨fun p hp => ⟨State.resetWith_inv hp, fun m a => ?_⟩, State.resetWith_inv Config.defaultParams_ok⟩
  have unwritten : Memory.lookup a ((State.resetWith p).mem m) = none := by simp
  exact ⟨unwritten, State.peek_of_lookup_none unwritten⟩

end Sys2Proof.Machine

/-!
PROOFS. What decodes is the encoding of a well-formed instruction (30_encoding.md R23, R82, R84, R85, R90): one lemma per form of the
tables, then the two streams and CTRL.
-/

namespace Sys2Proof

/-! ### Joining the fields of a byte, a word and a register -/

/-- A command byte of the LCW table with bit 7 clear is its two fields (R82). -/
theorem lcwRelByte_fields : ∀ b : Byte, b.getLsbD 7 = false → 0#1 ++ b.extractLsb' 4 3 ++ b.extractLsb' 0 4 = b := by decide

/-- A command byte with top bits 10 is `2#2` and its count (R82). -/
theorem byte_of_top_10 : ∀ b : Byte, b.getLsbD 7 = true → b.getLsbD 6 = false → 2#2 ++ b.extractLsb' 0 6 = b := by decide

theorem byte_of_top_11 : ∀ b : Byte, b.getLsbD 7 = true → b.getLsbD 6 = true → 3#2 ++ b.extractLsb' 0 6 = b := by decide

theorem byte_of_top_0 : ∀ b : Byte, b.getLsbD 7 = false → 0#1 ++ b.extractLsb' 0 7 = b := by decide

theorem byte_of_top_1 : ∀ b : Byte, b.getLsbD 7 = true → 1#1 ++ b.extractLsb' 0 7 = b := by decide

/-- A word of the XD long forms is its top bits and its count (R85). -/
theorem half_of_top_bit (w : Half) : BitVec.ofBool (w.getLsbD 15) ++ w.extractLsb' 0 15 = w := by
  apply BitVec.eq_of_getLsbD_eq
  intro k hk
  simp only [BitVec.getLsbD_append, BitVec.getLsbD_extractLsb', BitVec.getLsbD_ofBool]
  by_cases h : k < 15
  · simp [h]
  · simp [show k = 15 by omega]

theorem half_of_top_bits (w : Half) :
    BitVec.ofBool (w.getLsbD 15) ++ BitVec.ofBool (w.getLsbD 14) ++ w.extractLsb' 0 14 = w := by
  apply BitVec.eq_of_getLsbD_eq
  intro k hk
  simp only [BitVec.getLsbD_append, BitVec.getLsbD_extractLsb', BitVec.getLsbD_ofBool]
  by_cases h : k < 14
  · simp [h]
  · obtain rfl | rfl : k = 14 ∨ k = 15 := by omega
    · simp
    · simp

/-- The OP and REL fields of a CTRL value, put together, are the value under their mask (R23). -/
theorem ctrlValue_fields (x : Word) : ctrlValue (x.extractLsb' 0 3) (x.getLsbD 8) = x &&& 0x107#32 := by
  apply BitVec.eq_of_getLsbD_eq
  intro k hk
  simp only [ctrlValue, BitVec.getLsbD_append, BitVec.getLsbD_extractLsb', BitVec.getLsbD_ofBool, BitVec.getLsbD_and]
  interval_cases k <;> simp

/-- The count field of a literal form is its payload's length (R82, R84, R85). -/
theorem ofNat_of_length_eq {w : Nat} {n : BitVec w} {payload : List Byte} (h : payload.length = n.toNat) :
    BitVec.ofNat w payload.length = n := by
  rw [h, BitVec.ofNat_toNat, BitVec.setWidth_eq]

/-! ### The forms of the two tables -/

/-- The stream begins with the encoding of `i`, a well-formed instruction of mode `m`, and goes on with `rest`. -/
def BeginsWith (m : Mode) (bs : List Byte) (i : Instr) (rest : List Byte) : Prop :=
  i.wf = true ∧ i.mode = m ∧ bs = i.bytes ++ rest

/-- A literal form takes as many payload bytes as its count says. -/
theorem decodePayload_eq_command {n : Nat} {bs rest : List Byte} {mk : List Byte → Instr} {i : Instr}
    (h : decodePayload n bs mk = .command i rest) :
    ∃ payload, i = mk payload ∧ bs = payload ++ rest ∧ payload.length = n := by
  obtain ⟨payload, rest', hbs, hlen, hdec⟩ | ⟨-, hdec⟩ := decodePayload_cases n bs mk
  · rw [hdec] at h
    obtain ⟨rfl, rfl⟩ := Decoded.command.inj h
    exact ⟨payload, rfl, hbs, hlen⟩
  · rw [hdec] at h
    cases h

theorem beginsWith_of_decodeLcwRel {b0 : Byte} {bs rest : List Byte} {i : Instr} (h7 : b0.getLsbD 7 = false)
    (h : decodeLcwRel b0 bs = .command i rest) : BeginsWith .lcw (b0 :: bs) i rest := by
  cases bs with
  | nil => cases h
  | cons b1 bs =>
    obtain ⟨rfl, rfl⟩ := Decoded.command.inj h
    refine ⟨rfl, rfl, ?_⟩
    have hhi : (b0.extractLsb' 0 4 ++ b1).extractLsb' 8 4 = b0.extractLsb' 0 4 :=
      BitVec.extractLsb'_append_eq_left
    have hlo : (b0.extractLsb' 0 4 ++ b1).extractLsb' 0 8 = b1 := BitVec.extractLsb'_append_eq_right
    simp [Instr.bytes, hhi, hlo, lcwRelByte_fields b0 h7]

theorem beginsWith_of_decodeLcwLit {b0 : Byte} {bs rest : List Byte} {i : Instr} (h7 : b0.getLsbD 7 = true)
    (h6 : b0.getLsbD 6 = false) (h0 : b0.extractLsb' 0 6 ≠ 0#6)
    (h : decodePayload (b0.extractLsb' 0 6).toNat bs .lcwLit = .command i rest) : BeginsWith .lcw (b0 :: bs) i rest := by
  obtain ⟨payload, rfl, rfl, hlen⟩ := decodePayload_eq_command h
  have hpos := BitVec.toNat_pos_of_ne_zero h0
  have hlt := (b0.extractLsb' 0 6).isLt
  refine ⟨?_, rfl, ?_⟩
  · simp only [Instr.wf, Bool.and_eq_true, decide_eq_true_eq]
    omega
  · simp [Instr.bytes, ofNat_of_length_eq hlen, byte_of_top_10 b0 h7 h6]

theorem beginsWith_of_decodeLcwFill {bs rest : List Byte} {i : Instr} (h : decodeLcwFill bs = .command i rest) :
    BeginsWith .lcw (0xFE#8 :: bs) i rest := by
  unfold decodeLcwFill at h
  split at h
  · obtain ⟨rfl, rfl⟩ := Decoded.command.inj h
    exact ⟨rfl, rfl, by simp [Instr.bytes, halfBytes_half]⟩
  · cases h

theorem beginsWith_of_decodeLcwAbsl {bs rest : List Byte} {i : Instr} (h : decodeLcwAbsl bs = .command i rest) :
    BeginsWith .lcw (0xFF#8 :: bs) i rest := by
  unfold decodeLcwAbsl at h
  split at h
  · obtain ⟨rfl, rfl⟩ := Decoded.command.inj h
    exact ⟨rfl, rfl, by simp [Instr.bytes, halfBytes_half]⟩
  · cases h

/-- The counts 0x3E and 0x3F belong to LCW.FILL and LCW.ABSL (R81), so LCW.ABS has at most 0x3D. -/
theorem beginsWith_of_decodeLcwAbs {b0 : Byte} {bs rest : List Byte} {i : Instr} (h7 : b0.getLsbD 7 = true)
    (h6 : b0.getLsbD 6 = true) (hFill : b0.extractLsb' 0 6 ≠ 0x3E#6) (hAbsl : b0.extractLsb' 0 6 ≠ 0x3F#6)
    (h : decodeLcwAbs b0 bs = .command i rest) : BeginsWith .lcw (b0 :: bs) i rest := by
  have hcount : ∀ c : BitVec 6, c ≠ 0x3E#6 → c ≠ 0x3F#6 → c.toNat ≤ 0x3D := by decide
  unfold decodeLcwAbs at h
  split at h
  · obtain ⟨rfl, rfl⟩ := Decoded.command.inj h
    refine ⟨?_, rfl, by simp [Instr.bytes, halfBytes_half, byte_of_top_11 b0 h7 h6]⟩
    simpa only [Instr.wf, decide_eq_true_eq] using hcount _ hFill hAbsl
  · cases h

theorem beginsWith_of_decodeXdFill {bs rest : List Byte} {i : Instr} (h : decodeXdFill bs = .command i rest) :
    BeginsWith .xd (0x00#8 :: bs) i rest := by
  unfold decodeXdFill at h
  split at h
  · obtain ⟨rfl, rfl⟩ := Decoded.command.inj h
    exact ⟨rfl, rfl, rfl⟩
  · cases h

theorem beginsWith_of_decodeXdXor {b0 : Byte} {bs rest : List Byte} {i : Instr} (h7 : b0.getLsbD 7 = false)
    (h0 : b0.extractLsb' 0 7 ≠ 0#7) (h : decodePayload (b0.extractLsb' 0 7).toNat bs .xdXor = .command i rest) :
    BeginsWith .xd (b0 :: bs) i rest := by
  obtain ⟨payload, rfl, rfl, hlen⟩ := decodePayload_eq_command h
  have hpos := BitVec.toNat_pos_of_ne_zero h0
  have hlt := (b0.extractLsb' 0 7).isLt
  refine ⟨?_, rfl, ?_⟩
  · simp only [Instr.wf, Bool.and_eq_true, decide_eq_true_eq]
    omega
  · simp [Instr.bytes, ofNat_of_length_eq hlen, byte_of_top_0 b0 h7]

theorem beginsWith_xdSkip {b0 : Byte} (rest : List Byte) (h7 : b0.getLsbD 7 = true) (h0 : b0.extractLsb' 0 7 ≠ 0#7) :
    BeginsWith .xd (b0 :: rest) (.xdSkip (b0.extractLsb' 0 7)) rest :=
  ⟨by simpa [Instr.wf] using h0, rfl, by simp [Instr.bytes, byte_of_top_1 b0 h7]⟩

/-- The XD long forms (R85): the byte 0x80, the word's two bytes, and what the word selects. -/
theorem beginsWith_of_decodeXdLong {lo hi : Byte} {bs rest : List Byte} {i : Instr}
    (h : decodeXdLong (half lo hi) bs = .command i rest) : BeginsWith .xd (0x80#8 :: lo :: hi :: bs) i rest := by
  have hbytes : halfBytes (half lo hi) = [lo, hi] := halfBytes_half lo hi
  generalize half lo hi = w at h hbytes
  unfold decodeXdLong at h
  split at h
  case isTrue hw =>
    obtain ⟨rfl, rfl⟩ := Decoded.command.inj h
    subst hw
    obtain ⟨rfl, rfl⟩ : 0#8 = lo ∧ 0#8 = hi := by simpa [halfBytes] using hbytes
    exact ⟨rfl, rfl, rfl⟩
  case isFalse hw =>
    split at h
    case isTrue h15 =>
      obtain ⟨rfl, rfl⟩ := Decoded.command.inj h
      have hjoin : 0#1 ++ w.extractLsb' 0 15 = w := by
        have hw := half_of_top_bit w
        rwa [h15] at hw
      refine ⟨?_, rfl, by simp [Instr.bytes, hjoin, hbytes]⟩
      have hn : w.extractLsb' 0 15 ≠ 0#15 := fun hzero => hw (by rw [← hjoin, hzero]; rfl)
      simpa [Instr.wf] using hn
    case isFalse h15 =>
      replace h15 : w.getLsbD 15 = true := by simpa using h15
      split at h
      case isTrue h14 =>
        obtain ⟨payload, rfl, rfl, hlen⟩ := decodePayload_eq_command h
        have hjoin : 2#2 ++ w.extractLsb' 0 14 = w := by
          have hw := half_of_top_bits w
          rwa [h15, h14] at hw
        have hlt := (w.extractLsb' 0 14).isLt
        refine ⟨?_, rfl, by simp [Instr.bytes, ofNat_of_length_eq hlen, hjoin, hbytes]⟩
        simp only [Instr.wf, decide_eq_true_eq]
        omega
      case isFalse h14 =>
        replace h14 : w.getLsbD 14 = true := by simpa using h14
        have hjoin : 3#2 ++ w.extractLsb' 0 14 = w := by
          have hw := half_of_top_bits w
          rwa [h15, h14] at hw
        cases bs with
        | nil => cases h
        | cons v bs =>
          obtain ⟨rfl, rfl⟩ := Decoded.command.inj h
          exact ⟨rfl, rfl, by simp [Instr.bytes, hjoin, hbytes]⟩

/-! ### The tables -/

/-- What the LCW table reads is at the front of the stream (R81, R82). -/
theorem beginsWith_of_decodeLcw {bs rest : List Byte} {i : Instr} (h : decodeLcw bs = .command i rest) :
    BeginsWith .lcw bs i rest := by
  cases bs with
  | nil => cases h
  | cons b0 bs =>
    rw [decodeLcw] at h
    split at h
    case isTrue h7 => exact beginsWith_of_decodeLcwRel h7 h
    case isFalse h7 =>
      replace h7 : b0.getLsbD 7 = true := by simpa using h7
      split at h
      case isTrue h6 =>
        split at h
        case isTrue h0 =>
          obtain ⟨rfl, rfl⟩ := Decoded.command.inj h
          have hb0 : b0 = 0x80#8 := by rw [← byte_of_top_10 b0 h7 h6, h0]; rfl
          exact ⟨rfl, rfl, by rw [hb0]; rfl⟩
        case isFalse h0 => exact beginsWith_of_decodeLcwLit h7 h6 h0 h
      case isFalse h6 =>
        replace h6 : b0.getLsbD 6 = true := by simpa using h6
        split at h
        case isTrue hFill =>
          have hb0 : b0 = 0xFE#8 := by rw [← byte_of_top_11 b0 h7 h6, hFill]; rfl
          exact hb0 ▸ beginsWith_of_decodeLcwFill h
        case isFalse hFill =>
          split at h
          case isTrue hAbsl =>
            have hb0 : b0 = 0xFF#8 := by rw [← byte_of_top_11 b0 h7 h6, hAbsl]; rfl
            exact hb0 ▸ beginsWith_of_decodeLcwAbsl h
          case isFalse hAbsl => exact beginsWith_of_decodeLcwAbs h7 h6 hFill hAbsl h

/-- What the XD table reads is at the front of the stream (R84, R85). -/
theorem beginsWith_of_decodeXd {bs rest : List Byte} {i : Instr} (h : decodeXd bs = .command i rest) :
    BeginsWith .xd bs i rest := by
  cases bs with
  | nil => cases h
  | cons b0 bs =>
    unfold decodeXd at h
    dsimp only at h
    split at h
    case isTrue hLong =>
      subst hLong
      split at h
      · exact beginsWith_of_decodeXdLong h
      · cases h
    case isFalse hLong =>
      split at h
      case isTrue hFill => exact hFill ▸ beginsWith_of_decodeXdFill h
      case isFalse hFill =>
        split at h
        case isTrue h7 =>
          have h0 : b0.extractLsb' 0 7 ≠ 0#7 := fun hzero => hFill (by rw [← byte_of_top_0 b0 h7, hzero]; rfl)
          exact beginsWith_of_decodeXdXor h7 h0 h
        case isFalse h7 =>
          replace h7 : b0.getLsbD 7 = true := by simpa using h7
          have h0 : b0.extractLsb' 0 7 ≠ 0#7 := fun hzero => hLong (by rw [← byte_of_top_1 b0 h7, hzero]; rfl)
          obtain ⟨rfl, rfl⟩ := Decoded.command.inj h
          exact beginsWith_xdSkip bs h7 h0

/-- What a host write of `x` to CTRL reads as: a well-formed control operation with the OP and REL of `x` (R90, R180). -/
theorem decodeCtrl_spec (x : Word) :
    (decodeCtrl x).wf = true ∧ (decodeCtrl x).mode = .ctrl
      ∧ (decodeCtrl x).ctrlWord = ctrlValue (x.extractLsb' 0 3) (x.getLsbD 8) := by
  have hreserved : ∀ op : BitVec 3, op ≠ 0#3 → op ≠ 1#3 → op ≠ 2#3 → op ≠ 3#3 → op ≠ 4#3 → 5 ≤ op.toNat := by decide
  unfold decodeCtrl
  generalize x.extractLsb' 0 3 = op
  generalize x.getLsbD 8 = rel
  dsimp only
  split_ifs with h0 h1 h2 h3 h4
  case neg => exact ⟨by simpa [Instr.wf] using hreserved op h0 h1 h2 h3 h4, rfl, rfl⟩
  all_goals subst op; exact ⟨rfl, rfl, rfl⟩

/-- Settles O7, table by table. -/
theorem decodeAnswersOnlyEncodings : Obligations.DecodeAnswersOnlyEncodings := by
  refine ⟨fun _ _ _ h => beginsWith_of_decodeLcw h, fun _ _ _ h => beginsWith_of_decodeXd h, fun x i rest h => ?_⟩
  obtain ⟨rfl, rfl⟩ := Decoded.command.inj h
  obtain ⟨hwf, hmode, hword⟩ := decodeCtrl_spec x
  exact ⟨hwf, hmode, rfl, hword.trans (ctrlValue_fields x)⟩

end Sys2Proof

/-!
PROOFS. What one turn can do: `EngineMove` and `HostMove` list the outcomes of the engine's and of the host's turns, and
`step_moves` is the inversion of `step` that the invariants rest on (42_control.md R180, R191; 60_exceptions.md R203 to R205).
-/

namespace Sys2Proof.Machine

/-! ### Instructions as the shared templates -/

/-- A write that keeps the canonical form of every memory that has `[a, a + count)` inside it. -/
def Memory.KeepsWf (a count : Nat) (write : Memory → Memory) : Prop :=
  ∀ (size : Nat) (m : Memory), a + count ≤ size → m.wf size = true → (write m).wf size = true

theorem Memory.keepsWf_store (vs : List Byte) (a : Nat) : Memory.KeepsWf a vs.length (fun m => m.store vs a) :=
  fun _ _ ha hm => Memory.wf_store vs ha hm

theorem Memory.keepsWf_copyBack (draw : Nat → Byte) (n src dst : Nat) :
    Memory.KeepsWf dst n (fun m => m.copyBack draw n src dst) :=
  fun _ _ ha hm => Memory.wf_copyBack draw n ha hm

/-- Every LCW command but LCW.END is the checks of R104 around a write of its output bytes. -/
theorem exec_lcw_template {i : Instr} (hmode : i.mode = .lcw) (hend : i ≠ .lcwEnd) (s : State) :
    ∃ count source write, Memory.KeepsWf s.dp.toNat count write ∧ exec i s = s.lcwCommand i.length count source write := by
  cases i with
  | lcwRel c d => exact ⟨_, _, _, Memory.keepsWf_copyBack _ _ _ _, rfl⟩
  | lcwEnd => exact absurd rfl hend
  | lcwLit payload => exact ⟨_, _, _, Memory.keepsWf_store payload _, rfl⟩
  | lcwAbs c p => exact ⟨_, _, _, Memory.keepsWf_copyBack _ _ _ _, rfl⟩
  | lcwFill n v => exact ⟨_, _, _, Memory.keepsWf_store (List.replicate n.toNat v) _, rfl⟩
  | lcwAbsl n p => exact ⟨_, _, _, Memory.keepsWf_copyBack _ _ _ _, rfl⟩
  | _ => cases hmode

/-- Every XD command but XD.END is an update or a skip. -/
theorem exec_xd_template {i : Instr} (hmode : i.mode = .xd) (hend : i ≠ .xdEnd) (s : State) :
    (∃ us, exec i s = s.xdUpdate i.length us) ∨ ∃ count, exec i s = s.xdSkip i.length count := by
  cases i with
  | xdFill n v => exact .inl ⟨_, rfl⟩
  | xdXor payload => exact .inl ⟨_, rfl⟩
  | xdSkip n => exact .inr ⟨_, rfl⟩
  | xdEnd => exact absurd rfl hend
  | xdSkipl n => exact .inr ⟨_, rfl⟩
  | xdXorl payload => exact .inl ⟨_, rfl⟩
  | xdFilll n v => exact .inl ⟨_, rfl⟩
  | _ => cases hmode

theorem exec_lcwEnd (s : State) : exec .lcwEnd s = .next ((s.advance 1 0).lcwTerminate false) := rfl

theorem exec_xdEnd (s : State) : exec .xdEnd s = .next (s.advance 3 0).finish := rfl

/-- Every control instruction is a CTRL write (R180). -/
theorem exec_ctrl_template {i : Instr} (hmode : i.mode = .ctrl) (s : State) :
    ∃ rel perform, exec i s = .next (s.ctrlOperation rel perform) := by
  cases i with
  | ctrlNop rel => exact ⟨_, _, rfl⟩
  | ctrlStartLcw rel => exact ⟨_, _, rfl⟩
  | ctrlStartXd rel => exact ⟨_, _, rfl⟩
  | ctrlStartFrame rel => exact ⟨_, _, rfl⟩
  | ctrlClearFrm rel => exact ⟨_, _, rfl⟩
  | ctrlReserved op rel => exact ⟨_, _, rfl⟩
  | _ => cases hmode

/-- What a host write of `x` to CTRL performs once its REL is stored: nothing, a start, or a reserved operation (R181 to R190). -/
theorem exec_decodeCtrl (x : Word) (s : State) :
    ∃ perform, exec (decodeCtrl x) s = .next (s.ctrlOperation (x.getLsbD 8) perform)
      ∧ (perform = (fun u => u) ∨ (∃ op, perform = fun u => u.start op) ∨ ∃ k, k ≠ 0#3 ∧ perform = fun u => u.reserved k) := by
  unfold decodeCtrl
  dsimp only
  split_ifs with h0 h1 h2 h3 h4
  · exact ⟨_, rfl, .inl rfl⟩
  · exact ⟨_, rfl, .inr (.inl ⟨.lcw, rfl⟩)⟩
  · exact ⟨_, rfl, .inr (.inl ⟨.xd, rfl⟩)⟩
  · exact ⟨_, rfl, .inr (.inl ⟨.frame, rfl⟩)⟩
  · exact ⟨_, rfl, .inr (.inl ⟨.clear, rfl⟩)⟩
  · exact ⟨_, rfl, .inr (.inr ⟨_, h0, rfl⟩)⟩

/-! ### What the engine fetches -/

theorem encodedLength (i : Instr) : Laws.EncodedLength.Statement i := by
  cases i with
  | lcwRel c d => exact Laws.EncodedLength.lcwRel c d
  | lcwEnd => exact Laws.EncodedLength.lcwEnd
  | lcwLit payload => exact Laws.EncodedLength.lcwLit payload
  | lcwAbs c p => exact Laws.EncodedLength.lcwAbs c p
  | lcwFill n v => exact Laws.EncodedLength.lcwFill n v
  | lcwAbsl n p => exact Laws.EncodedLength.lcwAbsl n p
  | xdFill n v => exact Laws.EncodedLength.xdFill n v
  | xdXor payload => exact Laws.EncodedLength.xdXor payload
  | xdSkip n => exact Laws.EncodedLength.xdSkip n
  | xdEnd => exact Laws.EncodedLength.xdEnd
  | xdSkipl n => exact Laws.EncodedLength.xdSkipl n
  | xdXorl payload => exact Laws.EncodedLength.xdXorl payload
  | xdFilll n v => exact Laws.EncodedLength.xdFilll n v
  | ctrlNop rel => exact Laws.EncodedLength.ctrlNop rel
  | ctrlStartLcw rel => exact Laws.EncodedLength.ctrlStartLcw rel
  | ctrlStartXd rel => exact Laws.EncodedLength.ctrlStartXd rel
  | ctrlStartFrame rel => exact Laws.EncodedLength.ctrlStartFrame rel
  | ctrlClearFrm rel => exact Laws.EncodedLength.ctrlClearFrm rel
  | ctrlReserved op rel => exact Laws.EncodedLength.ctrlReserved op rel

/-- The table of a phase (R80). -/
def Phase.mode : Phase → Mode
  | .lcw => .lcw
  | .xd => .xd

theorem Phase.mode_ne_ctrl (p : Phase) : p.mode ≠ .ctrl := by cases p <;> decide

/-- The bytes at SP begin with the command that is fetched, one of the running phase's table. -/
theorem State.beginsWith_of_fetch {s : State} {i : Instr} {rest : List Byte} (h : decode s.fetchCode = .command i rest) :
    BeginsWith s.phase.mode s.fetchBytes i rest := by
  cases hphase : s.phase with
  | lcw =>
    rw [State.fetchCode, hphase] at h
    exact beginsWith_of_decodeLcw h
  | xd =>
    rw [State.fetchCode, hphase] at h
    exact beginsWith_of_decodeXd h

theorem State.length_fetchBytes (s : State) :
    s.fetchBytes.length = min (s.fetchEnd - s.sp.toNat) s.phase.longest := by
  simp [State.fetchBytes, State.peekRange]

/-- The fetch reads nothing from INLEN on, so a fetched command ends within the input (R34, R100, R140). -/
theorem State.fetched_within {s : State} {i : Instr} {rest : List Byte} (h : decode s.fetchCode = .command i rest) :
    i.mode = s.phase.mode ∧ s.sp.toNat + i.length ≤ s.inLen := by
  obtain ⟨hwf, hmode, hbytes⟩ := State.beginsWith_of_fetch h
  obtain ⟨hlen, -, hpos⟩ := encodedLength i hwf
  have hpos := hpos (hmode ▸ s.phase.mode_ne_ctrl)
  have htotal : min (s.fetchEnd - s.sp.toNat) s.phase.longest = i.length + rest.length := by
    rw [← State.length_fetchBytes, hbytes, List.length_append, hlen]
  have hend : s.fetchEnd ≤ s.inLen := Nat.min_le_left _ _
  exact ⟨hmode, by omega⟩

/-! ### The engine's moves -/

/-- The three causes that an engine step raises (R202, R205). -/
def Cause.OfEngine (f : Cause) : Prop := f = .inputOverrun ∨ f = .backrefRange ∨ f = .capacity

/-- What a running job's engine turn makes of the state with the turn taken. -/
inductive EngineMove (s : State) : State → Prop where
  /-- The CLEAR step (R186). -/
  | clears (hjob : s.job = jobClear) (hcap : s.cap.toNat ≤ s.params.bufSize) :
      EngineMove s { s with frm := s.frm.store (List.replicate s.cap.toNat 0x00#8) 0 }.finish
  /-- The LCW phase ends by a full buffer (R100, R113). -/
  | fillsBuffer (hjob : s.job ≠ jobClear) (hphase : s.phase = .lcw) : EngineMove s (s.lcwTerminate true)
  /-- LCW.END (R105). -/
  | endsLcw (hjob : s.job ≠ jobClear) (hphase : s.phase = .lcw) (hsp : s.sp.toNat + 1 ≤ s.inLen) :
      EngineMove s ((s.advance 1 0).lcwTerminate false)
  /-- XD.END (R147). -/
  | endsXd (hjob : s.job ≠ jobClear) (hphase : s.phase = .xd) (hsp : s.sp.toNat + 3 ≤ s.inLen) :
      EngineMove s (s.advance 3 0).finish
  /-- A fetch or a check fails (R203 to R205). -/
  | faults (hjob : s.job ≠ jobClear) (f : Cause) (hf : f.OfEngine) : EngineMove s (s.raise f)
  /-- An LCW command completes and has written SCR (R106 to R110). -/
  | writesScr (hjob : s.job ≠ jobClear) (hphase : s.phase = .lcw) (len count : Nat) (write : Memory → Memory)
      (hwrite : Memory.KeepsWf s.dp.toNat count write) (hsp : s.sp.toNat + len ≤ s.inLen)
      (hdp : s.dp.toNat + count ≤ s.cap.toNat) : EngineMove s ({ s with scr := write s.scr }.advance len count)
  /-- An XD update completes and has written FRM (R145, R146, R149, R150). -/
  | updatesFrm (hjob : s.job ≠ jobClear) (hphase : s.phase = .xd) (len : Nat) (us : List Byte)
      (hsp : s.sp.toNat + len ≤ s.inLen) (hdp : s.dp.toNat + us.length ≤ s.cap.toNat) :
      EngineMove s ({ s with frm := s.frm.xorStore (s.draw .frm) us s.dp.toNat }.advance len us.length)
  /-- An XD skip completes (R144, R148). -/
  | skips (hjob : s.job ≠ jobClear) (hphase : s.phase = .xd) (len count : Nat) (hsp : s.sp.toNat + len ≤ s.inLen)
      (hdp : s.dp.toNat + count ≤ s.cap.toNat) : EngineMove s (s.advance len count)

theorem EngineMove.of_exec_lcw {s t : State} {i : Instr} (hjob : s.job ≠ jobClear) (hphase : s.phase = .lcw)
    (hmode : i.mode = .lcw) (hsp : s.sp.toNat + i.length ≤ s.inLen) (h : exec i s = .next t) : EngineMove s t := by
  by_cases hend : i = .lcwEnd
  · subst hend
    rw [exec_lcwEnd] at h
    injection h with h
    exact h ▸ .endsLcw hjob hphase hsp
  · obtain ⟨count, source, write, hwrite, hexec⟩ := exec_lcw_template hmode hend s
    rw [hexec] at h
    obtain ⟨-, rfl⟩ | ⟨-, -, rfl⟩ | ⟨-, -, -, rfl⟩ | ⟨-, -, hdp, -, rfl⟩ := State.lcwCommand_cases h
    · exact .faults hjob _ (.inl rfl)
    · exact .faults hjob _ (.inr (.inl rfl))
    · exact .faults hjob _ (.inr (.inr rfl))
    · exact .writesScr hjob hphase _ count write hwrite hsp hdp

theorem EngineMove.of_exec_xd {s t : State} {i : Instr} (hjob : s.job ≠ jobClear) (hphase : s.phase = .xd)
    (hmode : i.mode = .xd) (hsp : s.sp.toNat + i.length ≤ s.inLen) (h : exec i s = .next t) : EngineMove s t := by
  by_cases hend : i = .xdEnd
  · subst hend
    rw [exec_xdEnd] at h
    injection h with h
    exact h ▸ .endsXd hjob hphase hsp
  · obtain ⟨us, hexec⟩ | ⟨count, hexec⟩ := exec_xd_template hmode hend s
    · rw [hexec] at h
      obtain ⟨-, rfl⟩ | ⟨-, -, rfl⟩ | ⟨-, hdp, -, rfl⟩ := State.xdUpdate_cases h
      · exact .faults hjob _ (.inl rfl)
      · exact .faults hjob _ (.inr (.inr rfl))
      · exact .updatesFrm hjob hphase _ us hsp hdp
    · rw [hexec] at h
      obtain ⟨-, rfl⟩ | ⟨hdp, rfl⟩ := State.xdSkip_cases h
      · exact .faults hjob _ (.inr (.inr rfl))
      · exact .skips hjob hphase _ count hsp hdp

/-- What is done by an action in the state `s`. -/
def Action.outcome (s : State) : Action → Result
  | .run i => exec i s
  | .effect o => o

theorem EngineMove.of_fetch {s t : State} (hjob : s.job ≠ jobClear) (h : s.fetch.outcome s = .next t) : EngineMove s t := by
  obtain ⟨i, rest, hdec, hfetch⟩ | ⟨-, -, hfetch⟩ | ⟨-, -, hfetch⟩ := s.fetch_cases
  · rw [hfetch] at h
    obtain ⟨hmode, hsp⟩ := State.fetched_within hdec
    cases hphase : s.phase with
    | lcw => exact .of_exec_lcw hjob hphase (by rw [hmode, hphase]; rfl) hsp h
    | xd => exact .of_exec_xd hjob hphase (by rw [hmode, hphase]; rfl) hsp h
  · rw [hfetch] at h
    cases h
  · rw [hfetch] at h
    injection h with h
    exact h ▸ .faults hjob _ (.inl rfl)

/-- Everything an engine turn can do (R191, R217). -/
theorem engineAction_moves {s t : State} (h : s.engineAction.outcome s = .next t) :
    (s.st ≠ .running ∧ t = s) ∨ (s.st = .running ∧ EngineMove s t) := by
  obtain ⟨hst, hact⟩ | ⟨hrun, hjob, hact⟩ | ⟨hrun, hjob, hphase, -, hact⟩ | ⟨hrun, hjob, -, hact⟩ := s.engineAction_cases
  · rw [hact] at h
    injection h with h
    exact .inl ⟨hst, h.symm⟩
  · rw [hact] at h
    obtain ⟨hcap, rfl⟩ := State.clearStep_cases h
    exact .inr ⟨hrun, .clears hjob hcap⟩
  · rw [hact] at h
    injection h with h
    exact .inr ⟨hrun, h ▸ .fillsBuffer hjob hphase⟩
  · rw [hact] at h
    exact .inr ⟨hrun, .of_fetch hjob h⟩

/-! ### The host's moves -/

/-- The byte offset of a register in the window (R22). -/
def Reg.offset : Reg → BitVec 6
  | .ctrl => 0x00#6
  | .status => 0x04#6
  | .cause => 0x08#6
  | .cap => 0x0C#6
  | .srcLen => 0x10#6
  | .scrLen => 0x14#6
  | .sp => 0x18#6
  | .dp => 0x1C#6

@[simp] theorem regAt_offset (r : Reg) : regAt r.offset = some r := by cases r <;> rfl

theorem regAt_eq_some {offset : BitVec 6} {r : Reg} (h : regAt offset = some r) : offset = r.offset := by
  unfold regAt at h
  split_ifs at h with h0 <;> (injection h with h; subst h; assumption)

/-- What a host turn makes of the state with the turn taken. While RUNNING nothing is stored (R38, R40, R62). -/
inductive HostMove (s : State) (a : HostAction) : State → Prop where
  /-- The write is ignored. -/
  | ignored : HostMove s a s
  /-- The read is answered in the model's own fields (log 4). -/
  | answers (x : Word) (draws : Nat) : HostMove s a { s with hostData := x, draws := draws }
  | storesCap (hst : s.st ≠ .running) (x : Word) (ha : a = .regWrite 0x0C#6 x) : HostMove s a { s with cap := x }
  | storesSrcLen (hst : s.st ≠ .running) (x : Word) (ha : a = .regWrite 0x10#6 x) : HostMove s a { s with srcLen := x }
  | storesScrLen (hst : s.st ≠ .running) (x : Word) (ha : a = .regWrite 0x14#6 x) : HostMove s a { s with scrLen := x }
  | pokes (hst : s.st ≠ .running) (m : Mem) (b : Nat) (v : Byte) (ha : a = .memWrite m b v) (hb : b < s.params.size m) :
      HostMove s a (s.poke m b v)
  /-- CTRL.NOP (R181). -/
  | storesRel (hst : s.st ≠ .running) (x : Word) (ha : a = .regWrite 0x00#6 x) : HostMove s a { s with rel := x.getLsbD 8 }
  | starts (hst : s.st ≠ .running) (x : Word) (ha : a = .regWrite 0x00#6 x) (op : Op) :
      HostMove s a (State.start { s with rel := x.getLsbD 8 } op)
  | reserves (hst : s.st ≠ .running) (x : Word) (ha : a = .regWrite 0x00#6 x) (k : BitVec 3) (hk : k ≠ 0#3) :
      HostMove s a (State.reserved { s with rel := x.getLsbD 8 } k)

theorem HostMove.of_ctrlWrite (s : State) (x : Word) :
    ∃ t, exec (decodeCtrl x) s = .next t ∧ HostMove s (.regWrite 0x00#6 x) t := by
  obtain ⟨perform, hexec, hperform⟩ := exec_decodeCtrl x s
  refine ⟨_, hexec, ?_⟩
  obtain ⟨-, hignored⟩ | ⟨hst, htaken⟩ := s.ctrlOperation_cases (x.getLsbD 8) perform
  · rw [hignored]
    exact .ignored
  · rw [htaken]
    obtain rfl | ⟨op, rfl⟩ | ⟨k, hk, rfl⟩ := hperform
    · exact .storesRel hst x rfl
    · exact .starts hst x rfl op
    · exact .reserves hst x rfl k hk

theorem HostMove.of_writeReg {s : State} {r : Reg} {offset : BitVec 6} (hr : regAt offset = some r) (x : Word) :
    HostMove s (.regWrite offset x) (s.writeReg r x) := by
  have hoffset := regAt_eq_some hr
  obtain hw | ⟨hst, ⟨rfl, hw⟩ | ⟨rfl, hw⟩ | ⟨rfl, hw⟩⟩ := s.writeReg_cases r x
  · rw [hw]; exact .ignored
  · rw [hw]; exact .storesCap hst x (hoffset ▸ rfl)
  · rw [hw]; exact .storesSrcLen hst x (hoffset ▸ rfl)
  · rw [hw]; exact .storesScrLen hst x (hoffset ▸ rfl)

/-- A host turn always has a next state, and everything it can be (R38, R40, R62, R180). -/
theorem hostAction_moves (s : State) (a : HostAction) : ∃ t, (s.hostAction a).outcome s = .next t ∧ HostMove s a t := by
  obtain ⟨offset, x, rfl, hr, hact⟩ | ⟨offset, x, r, rfl, hr, -, hact⟩ | ⟨offset, x, rfl, -, hact⟩ | ⟨offset, rfl, hact⟩
    | ⟨m, b, v, rfl, hact⟩ | ⟨m, b, rfl, hact⟩ := s.hostAction_cases a <;> rw [hact]
  · obtain rfl : offset = 0x00#6 := regAt_eq_some hr
    exact HostMove.of_ctrlWrite s x
  · exact ⟨_, rfl, .of_writeReg hr x⟩
  · exact ⟨_, rfl, .ignored⟩
  · refine ⟨_, rfl, ?_⟩
    obtain ⟨x, hread⟩ | ⟨x, hread⟩ := s.readReg_cases offset <;> rw [hread]
    · exact .answers x s.draws
    · exact .answers x (s.draws + 1)
  · refine ⟨_, rfl, ?_⟩
    obtain hpoke | ⟨hst, hb, hpoke⟩ := s.hostPoke_cases m b v <;> rw [hpoke]
    · exact .ignored
    · exact .pokes hst m b v rfl hb
  · refine ⟨_, rfl, ?_⟩
    obtain ⟨x, hread⟩ | ⟨x, hread⟩ := s.hostPeek_cases m b <;> rw [hread]
    · exact .answers x s.draws
    · exact .answers x (s.draws + 1)

/-- While RUNNING a host move changes only the model's own record of reads (R38, R40, R62). -/
theorem HostMove.of_running {s t : State} {a : HostAction} (h : HostMove s a t) (hrun : s.st = .running) :
    t = { s with hostData := t.hostData, draws := t.draws } := by
  cases h with
  | ignored => rfl
  | answers x draws => rfl
  | storesCap hst | storesSrcLen hst | storesScrLen hst | pokes hst | storesRel hst | starts hst | reserves hst =>
    exact absurd hrun hst

/-! ### Steps -/

theorem step_eq_outcome (s : State) : step s = s.nextAction.outcome s.popTurn := rfl

theorem step_of_legal {s : State} (h : s.cause ≠ .illegalCommand) :
    step s = (s.popTurn.turnAction s.nextTurn).outcome s.popTurn := by
  rw [step_eq_outcome, State.nextAction_of_legal h]

/-- A step with a next state is one of a state that does not hold the reserved cause (U9). -/
theorem legal_of_step {s t : State} (h : step s = .next t) : s.cause ≠ .illegalCommand := by
  intro hcause
  rw [step_eq_outcome, State.nextAction, if_pos hcause] at h
  cases h

theorem step_of_engineTurn {s : State} (hlegal : s.cause ≠ .illegalCommand) (hturn : s.nextTurn = .engine) :
    step s = s.popTurn.engineAction.outcome s.popTurn := by
  rw [step_of_legal hlegal, hturn]
  rfl

theorem step_of_hostTurn {s : State} {a : HostAction} (hlegal : s.cause ≠ .illegalCommand) (hturn : s.nextTurn = .host a) :
    ∃ t, step s = .next t ∧ HostMove s.popTurn a t := by
  rw [step_of_legal hlegal, hturn]
  exact hostAction_moves s.popTurn a

/-- Everything a step can do, turn by turn. -/
theorem step_moves {s t : State} (h : step s = .next t) :
    (s.nextTurn = .reset ∧ t = s.popTurn.assertReset)
    ∨ (s.nextTurn = .engine ∧ s.st ≠ .running ∧ t = s.popTurn)
    ∨ (s.nextTurn = .engine ∧ s.st = .running ∧ EngineMove s.popTurn t)
    ∨ ∃ a, s.nextTurn = .host a ∧ HostMove s.popTurn a t := by
  have hlegal := legal_of_step h
  cases hturn : s.nextTurn with
  | engine =>
    rw [step_of_engineTurn hlegal hturn] at h
    obtain ⟨hst, ht⟩ | ⟨hrun, hmove⟩ := engineAction_moves h
    · exact .inr (.inl ⟨rfl, hst, ht⟩)
    · exact .inr (.inr (.inl ⟨rfl, hrun, hmove⟩))
  | host a =>
    obtain ⟨t', hstep, hmove⟩ := step_of_hostTurn hlegal hturn
    obtain rfl : t' = t := by simpa [hstep] using h
    exact .inr (.inr (.inr ⟨a, rfl, hmove⟩))
  | reset =>
    rw [step_of_legal hlegal, hturn] at h
    injection h with h
    exact .inl ⟨rfl, h.symm⟩

end Sys2Proof.Machine

/-!
PROOFS. The invariant of the block is kept by every step (10_state.md R25, R27; the spec's inferences R34 and R65), move by move; the
cursors' bounds and the host's registers follow from the same moves.
-/

namespace Sys2Proof.Machine

/-! ### The cursors -/

/-- R34's bounds. -/
def State.CursorsOk (s : State) : Prop := s.sp.toNat ≤ s.inLen ∧ s.dp.toNat ≤ s.cap.toNat

theorem State.inLen_of_lcw {s : State} (h : s.phase = .lcw) : s.inLen = s.srcLen.toNat := by simp [State.inLen, h]

theorem State.inLen_of_xd {s : State} (h : s.phase = .xd) : s.inLen = s.scrLen.toNat := by simp [State.inLen, h]

theorem State.inLen_lt (s : State) : s.inLen < 2 ^ 32 := by
  cases h : s.phase with
  | lcw => rw [State.inLen_of_lcw h]; exact s.srcLen.isLt
  | xd => rw [State.inLen_of_xd h]; exact s.scrLen.isLt

/-- Within the bounds no cursor is cut to 32 bits (log 17). -/
theorem State.toNat_advance_sp {s : State} {len : Nat} (count : Nat) (h : s.sp.toNat + len ≤ s.inLen) :
    (s.advance len count).sp.toNat = s.sp.toNat + len := by
  have := s.inLen_lt
  rw [State.advance_sp, BitVec.toNat_ofNat, Nat.mod_eq_of_lt (by omega)]

theorem State.toNat_advance_dp {s : State} {count : Nat} (len : Nat) (h : s.dp.toNat + count ≤ s.cap.toNat) :
    (s.advance len count).dp.toNat = s.dp.toNat + count := by
  have := s.cap.isLt
  rw [State.advance_dp, BitVec.toNat_ofNat, Nat.mod_eq_of_lt (by omega)]

theorem State.cursorsOk_advance {s : State} {len count : Nat} (hsp : s.sp.toNat + len ≤ s.inLen)
    (hdp : s.dp.toNat + count ≤ s.cap.toNat) : (s.advance len count).CursorsOk := by
  refine ⟨?_, ?_⟩
  · rw [State.toNat_advance_sp count hsp]
    exact hsp
  · rw [State.toNat_advance_dp len hdp]
    exact hdp

/-- The end of an LCW phase leaves the cursors where they were, or at 0 in the XD phase. -/
theorem State.cursorsOk_lcwTerminate {s : State} (hphase : s.phase = .lcw) (h : s.CursorsOk) (full : Bool) :
    (s.lcwTerminate full).CursorsOk := by
  obtain ⟨-, ht⟩ | ⟨-, ht⟩ := s.lcwTerminate_cases full
  · rw [ht]
    exact ⟨Nat.zero_le _, Nat.zero_le _⟩
  · obtain ⟨hsp, hdp⟩ := h
    rw [State.inLen_of_lcw hphase] at hsp
    rw [ht, State.CursorsOk, State.inLen_of_lcw (by exact hphase)]
    exact ⟨hsp, hdp⟩

theorem EngineMove.cursorsOk {s t : State} (h : EngineMove s t) (hs : s.CursorsOk) : t.CursorsOk := by
  cases h with
  | clears hjob hcap => exact hs
  | fillsBuffer hjob hphase => exact State.cursorsOk_lcwTerminate hphase hs true
  | endsLcw hjob hphase hsp => exact State.cursorsOk_lcwTerminate (s := s.advance 1 0) hphase (State.cursorsOk_advance hsp hs.2) false
  | endsXd hjob hphase hsp => exact State.cursorsOk_advance hsp hs.2
  | faults hjob f hf => exact hs
  | writesScr hjob hphase len count write hwrite hsp hdp => exact State.cursorsOk_advance hsp hdp
  | updatesFrm hjob hphase len us hsp hdp => exact State.cursorsOk_advance hsp hdp
  | skips hjob hphase len count hsp hdp => exact State.cursorsOk_advance hsp hdp

/-- Settles O5: the bounds are part of the invariant while a job runs, and every move of the engine keeps them. -/
theorem engineStepKeepsCursorsInBounds : Obligations.EngineStepKeepsCursorsInBounds := by
  rintro s t ⟨-, -, -, hrunning⟩ hrun hturn hstep
  obtain ⟨-, -, -, hdp, hsp, -⟩ := hrunning hrun
  rw [step_of_engineTurn (legal_of_step hstep) hturn] at hstep
  obtain ⟨hst, -⟩ | ⟨-, hmove⟩ := engineAction_moves hstep
  · exact absurd hrun hst
  · exact hmove.cursorsOk ⟨hsp, hdp⟩

/-! ### The memories -/

theorem State.memoriesWf_lcwTerminate {s : State} (h : s.memoriesWf) (full : Bool) : (s.lcwTerminate full).memoriesWf := by
  simpa [State.memoriesWf] using h

theorem State.memoriesWf_poke {s : State} (h : s.memoriesWf) {m : Mem} {b : Nat} (v : Byte) (hb : b < s.params.size m) :
    (s.poke m b v).memoriesWf := by
  obtain ⟨hsrc, hscr, hfrm⟩ := h
  cases m with
  | src => exact ⟨Memory.wf_write v hb hsrc, hscr, hfrm⟩
  | scr => exact ⟨hsrc, Memory.wf_write v hb hscr, hfrm⟩
  | frm => exact ⟨hsrc, hscr, Memory.wf_write v hb hfrm⟩

/-- CAP within the memory, every write of the engine is inside it (R65). -/
theorem EngineMove.memoriesWf {s t : State} (h : EngineMove s t) (hcap : s.cap.toNat ≤ s.params.bufSize)
    (hs : s.memoriesWf) : t.memoriesWf := by
  obtain ⟨hsrc, hscr, hfrm⟩ := hs
  cases h with
  | clears hjob hcap => exact ⟨hsrc, hscr, Memory.wf_store _ (by simpa using hcap) hfrm⟩
  | fillsBuffer hjob hphase => exact State.memoriesWf_lcwTerminate ⟨hsrc, hscr, hfrm⟩ true
  | endsLcw hjob hphase hsp => exact State.memoriesWf_lcwTerminate (s := s.advance 1 0) ⟨hsrc, hscr, hfrm⟩ false
  | endsXd hjob hphase hsp => exact ⟨hsrc, hscr, hfrm⟩
  | faults hjob f hf => exact ⟨hsrc, hscr, hfrm⟩
  | writesScr hjob hphase len count write hwrite hsp hdp => exact ⟨hsrc, hwrite _ _ (hdp.trans hcap) hscr, hfrm⟩
  | updatesFrm hjob hphase len us hsp hdp => exact ⟨hsrc, hscr, Memory.wf_xorStore _ us (hdp.trans hcap) hfrm⟩
  | skips hjob hphase len count hsp hdp => exact ⟨hsrc, hscr, hfrm⟩

theorem HostMove.memoriesWf {s t : State} {a : HostAction} (h : HostMove s a t) (hs : s.memoriesWf) : t.memoriesWf := by
  cases h with
  | pokes hst m b v ha hb => exact State.memoriesWf_poke hs v hb
  | starts hst x ha op => simpa [State.memoriesWf] using hs
  | ignored | answers | storesCap | storesSrcLen | storesScrLen | storesRel | reserves => exact hs

/-! ### STATE, JOB, PHASE, FULL and CAUSE -/

/-- While a job runs there is no cause, the job is none of IDLE, and FULL is only of a FRAME job in its XD phase. -/
theorem State.statusOk_iff_of_running {s : State} (hrun : s.st = .running) :
    s.statusOk ↔ s.cause = .none ∧ s.job ≠ 0#3 ∧ (s.phase = .xd → s.job = jobXd ∨ s.job = jobFrame)
      ∧ (s.full = true → s.job = jobFrame ∧ s.phase = .xd) := by
  constructor
  · rintro ⟨-, hcause, hjob, -, hxd, hfull⟩
    exact ⟨by simpa [hrun] using hcause, by simpa [hrun] using hjob, hxd, fun h => by simpa [hrun] using hfull h⟩
  · rintro ⟨hcause, hjob, hxd, hfull⟩
    exact ⟨by simp [hcause], by simp [hrun, hcause], by simp [hrun, hjob], by simp [hrun], hxd, fun h => .inr (hfull h)⟩

theorem State.statusOk_finish {s : State} (hrun : s.st = .running) (h : s.statusOk) : s.finish.statusOk := by
  obtain ⟨hcause, hjob, hxd, hfull⟩ := (State.statusOk_iff_of_running hrun).mp h
  refine ⟨by simp [hcause], by simp [hcause], by simp [hjob], by simp, hxd, fun h => .inr (hfull h)⟩

theorem State.statusOk_raise {s : State} (hrun : s.st = .running) (h : s.statusOk) {f : Cause} (hf : f.OfEngine) :
    (s.raise f).statusOk := by
  obtain ⟨-, hjob, hxd, hfull⟩ := (State.statusOk_iff_of_running hrun).mp h
  refine ⟨?_, ?_, by simp [hjob], by simp, hxd, fun h => .inr (hfull h)⟩ <;>
    obtain rfl | rfl | rfl := hf <;> simp

/-- The engine's LCW phase is that of an LCW or a FRAME job, so its end leaves FULL where the invariant allows it. -/
theorem State.statusOk_lcwTerminate {s : State} (hrun : s.st = .running) (h : s.statusOk)
    (hjob : s.job = jobLcw ∨ s.job = jobFrame) (full : Bool) : (s.lcwTerminate full).statusOk := by
  obtain ⟨hcause, hjob0, hxd, hfull⟩ := (State.statusOk_iff_of_running hrun).mp h
  obtain ⟨hframe, ht⟩ | ⟨hframe, ht⟩ := s.lcwTerminate_cases full
  · rw [ht, State.statusOk_iff_of_running (by exact hrun)]
    exact ⟨hcause, hjob0, fun _ => .inr hframe, fun _ => ⟨hframe, rfl⟩⟩
  · have hlcw : s.job = jobLcw := hjob.resolve_right hframe
    rw [ht]
    exact ⟨by simp [hcause], by simp [hcause], by simp [hjob0], by simp, hxd, fun _ => .inl ⟨hlcw, rfl⟩⟩

/-- The part of the invariant that a running job's phase gives: in the LCW phase an LCW or a FRAME job, or CLEAR. -/
theorem State.lcw_or_frame {s : State} (hrun : s.st = .running) (h : s.runningOk) (hjob : s.job ≠ jobClear)
    (hphase : s.phase = .lcw) : s.job = jobLcw ∨ s.job = jobFrame := by
  obtain ⟨hfour, hxd, -⟩ := h hrun
  obtain hlcw | hjobXd | hframe | hclear := hfour
  · exact .inl hlcw
  · rw [hxd hjobXd] at hphase
    cases hphase
  · exact .inr hframe
  · exact absurd hclear hjob

theorem EngineMove.statusOk {s t : State} (h : EngineMove s t) (hrun : s.st = .running) (hs : s.statusOk)
    (hs' : s.runningOk) : t.statusOk := by
  have hfields := (State.statusOk_iff_of_running hrun).mp hs
  have hkept {u : State} (hst : u.st = .running) (hcause : u.cause = s.cause) (hjob : u.job = s.job)
      (hphase : u.phase = s.phase) (hfull : u.full = s.full) : u.statusOk := by
    rw [State.statusOk_iff_of_running hst, hcause, hjob, hphase, hfull]
    exact hfields
  cases h with
  | clears hjob hcap => exact State.statusOk_finish hrun (hkept hrun rfl rfl rfl rfl)
  | fillsBuffer hjob hphase => exact State.statusOk_lcwTerminate hrun hs (State.lcw_or_frame hrun hs' hjob hphase) true
  | endsLcw hjob hphase hsp =>
    exact State.statusOk_lcwTerminate (s := s.advance 1 0) hrun (hkept hrun rfl rfl rfl rfl)
      (State.lcw_or_frame (s := s) hrun hs' hjob hphase) false
  | endsXd hjob hphase hsp => exact State.statusOk_finish hrun (hkept hrun rfl rfl rfl rfl)
  | faults hjob f hf => exact State.statusOk_raise hrun hs hf
  | writesScr hjob hphase len count write hwrite hsp hdp => exact hkept hrun rfl rfl rfl rfl
  | updatesFrm hjob hphase len us hsp hdp => exact hkept hrun rfl rfl rfl rfl
  | skips hjob hphase len count hsp hdp => exact hkept hrun rfl rfl rfl rfl

/-- A start leaves a running job, or one that faulted CONFIG (R182, R189). -/
theorem State.statusOk_start (s : State) (op : Op) : (s.start op).statusOk := by
  have hxd : op.phase = .xd → op.code = jobXd ∨ op.code = jobFrame := by cases op <;> decide
  have hjob : op.code ≠ 0#3 := by cases op <;> decide
  obtain ⟨-, ht⟩ | ⟨-, ht⟩ := s.start_cases op
  · rw [ht]
    exact ⟨by simp, by simp, by simp [hjob], by simp, hxd, by simp⟩
  · rw [ht, State.statusOk_iff_of_running rfl]
    exact ⟨rfl, hjob, hxd, by simp⟩

theorem State.statusOk_reserved (s : State) {k : BitVec 3} (hk : k ≠ 0#3) : (s.reserved k).statusOk :=
  ⟨by simp [State.reserved], by simp [State.reserved], by simp [State.reserved, hk], by simp [State.reserved],
    by simp [State.reserved], by simp [State.reserved]⟩

theorem HostMove.statusOk {s t : State} {a : HostAction} (h : HostMove s a t) (hs : s.statusOk) : t.statusOk := by
  cases h with
  | pokes hst m b v ha hb => cases m <;> exact hs
  | starts hst x ha op => exact State.statusOk_start _ op
  | reserves hst x ha k hk => exact State.statusOk_reserved _ hk
  | ignored | answers | storesCap | storesSrcLen | storesScrLen | storesRel => exact hs

/-! ### What holds while a job runs -/

theorem State.runningOk_of_not_running {s : State} (h : s.st ≠ .running) : s.runningOk := fun hrun => absurd hrun h

/-- While a job runs its bounds are about the sizes, CAP, the input's length and the cursors (R34, R65). -/
theorem State.runningOk_of_cursorsOk {s t : State} (hrun : s.st = .running) (hs : s.runningOk) (hjob : t.job = s.job)
    (hphase : t.phase = s.phase) (hcap : t.cap = s.cap) (hparams : t.params = s.params) (hin : t.inLen = s.inLen)
    (ht : t.CursorsOk) : t.runningOk := by
  obtain ⟨hfour, hxd, hcap', -, -, hsize⟩ := hs hrun
  obtain ⟨hsp, hdp⟩ := ht
  intro _
  rw [hjob, hphase, hparams]
  exact ⟨hfour, hxd, hcap ▸ hcap', hdp, hsp, hin ▸ hsize⟩

/-- An LCW phase ends the job, or passes a FRAME job to the XD phase, whose input is the DP bytes written (R113, R188). -/
theorem State.runningOk_lcwTerminate {s : State} (hcap : s.cap.toNat ≤ s.params.bufSize) (hdp : s.dp.toNat ≤ s.cap.toNat)
    (full : Bool) : (s.lcwTerminate full).runningOk := by
  obtain ⟨hframe, ht⟩ | ⟨-, ht⟩ := s.lcwTerminate_cases full
  · rw [ht]
    exact fun _ => ⟨.inr (.inr (.inl hframe)), fun _ => rfl, hcap, Nat.zero_le _, Nat.zero_le _, fun _ => hdp.trans hcap⟩
  · rw [ht]
    exact State.runningOk_of_not_running (by simp)

theorem EngineMove.runningOk {s t : State} (h : EngineMove s t) (hrun : s.st = .running) (hs : s.runningOk) : t.runningOk := by
  obtain ⟨-, -, hcap, hdp, hsp, -⟩ := hs hrun
  have hcursors : t.CursorsOk := h.cursorsOk ⟨hsp, hdp⟩
  cases h with
  | clears | endsXd | faults => exact State.runningOk_of_not_running (by simp)
  | fillsBuffer hjob hphase => exact State.runningOk_lcwTerminate hcap hdp true
  | endsLcw hjob hphase hsp =>
    refine State.runningOk_lcwTerminate (s := s.advance 1 0) hcap ?_ false
    rwa [State.toNat_advance_dp 1 (by omega)]
  | writesScr | updatesFrm | skips => exact State.runningOk_of_cursorsOk hrun hs rfl rfl rfl rfl rfl hcursors

/-- What a start has checked is what holds while the job runs (R189). -/
theorem State.runningOk_start (s : State) (op : Op) : (s.start op).runningOk := by
  obtain ⟨-, ht⟩ | ⟨hgood, ht⟩ := s.start_cases op
  · rw [ht]
    exact State.runningOk_of_not_running (by simp)
  · have hfits : ¬ _ := mt (State.configBad_iff s op).mpr (by simp [hgood])
    push Not at hfits
    obtain ⟨hcap, hlcw, hxd⟩ := hfits
    have hphase : op.code = jobXd → op.phase = .xd := by cases op <;> decide
    rw [ht]
    intro _
    cases op with
    | lcw => exact ⟨.inl rfl, hphase, hcap, Nat.zero_le _, Nat.zero_le _, fun _ => hlcw (.inl rfl)⟩
    | xd => exact ⟨.inr (.inl rfl), hphase, hcap, Nat.zero_le _, Nat.zero_le _, fun _ => hxd rfl⟩
    | frame => exact ⟨.inr (.inr (.inl rfl)), hphase, hcap, Nat.zero_le _, Nat.zero_le _, fun _ => hlcw (.inr rfl)⟩
    | clear => exact ⟨.inr (.inr (.inr rfl)), hphase, hcap, Nat.zero_le _, Nat.zero_le _, fun h => absurd rfl h⟩

theorem HostMove.runningOk {s t : State} {a : HostAction} (h : HostMove s a t) (hs : s.runningOk) : t.runningOk := by
  cases h with
  | ignored | answers => exact hs
  | starts hst x ha op => exact State.runningOk_start _ op
  | reserves => exact State.runningOk_of_not_running (by simp [State.reserved])
  | storesCap hst | storesSrcLen hst | storesScrLen hst | storesRel hst => exact State.runningOk_of_not_running hst
  | pokes hst => exact State.runningOk_of_not_running (by simpa [State.poke] using hst)

/-! ### The invariant -/

theorem EngineMove.params {s t : State} (h : EngineMove s t) : t.params = s.params := by
  cases h <;> simp

theorem HostMove.params {s t : State} {a : HostAction} (h : HostMove s a t) : t.params = s.params := by
  cases h <;> simp [State.poke, State.reserved]

theorem EngineMove.inv {s t : State} (h : EngineMove s t) (hrun : s.st = .running) (hs : s.Inv) : t.Inv := by
  obtain ⟨hparams, hmem, hstatus, hrunning⟩ := hs
  obtain ⟨-, -, hcap, -⟩ := hrunning hrun
  exact ⟨h.params ▸ hparams, h.memoriesWf hcap hmem, h.statusOk hrun hstatus hrunning, h.runningOk hrun hrunning⟩

theorem HostMove.inv {s t : State} {a : HostAction} (h : HostMove s a t) (hs : s.Inv) : t.Inv := by
  obtain ⟨hparams, hmem, hstatus, hrunning⟩ := hs
  exact ⟨h.params ▸ hparams, h.memoriesWf hmem, h.statusOk hstatus, h.runningOk hrunning⟩

/-- Reset leaves a legal state of the same sizes (R230, R231). -/
theorem State.assertReset_inv {s : State} (h : s.params.ok) : s.assertReset.Inv := State.resetWith_inv h

theorem State.popTurn_inv {s : State} (h : s.Inv) : s.popTurn.Inv := h

theorem State.inv_of_step {s t : State} (hs : s.Inv) (hstep : step s = .next t) : t.Inv := by
  obtain ⟨-, rfl⟩ | ⟨-, -, rfl⟩ | ⟨-, hrun, hmove⟩ | ⟨a, -, hmove⟩ := step_moves hstep
  · exact State.assertReset_inv hs.1
  · exact State.popTurn_inv hs
  · exact hmove.inv hrun (State.popTurn_inv hs)
  · exact hmove.inv (State.popTurn_inv hs)

/-- Settles O3: the four parts of the invariant, kept by each move of the engine, the host and reset. -/
theorem everyStepKeepsTheInvariant : Obligations.EveryStepKeepsTheInvariant := fun _ _ => State.inv_of_step

end Sys2Proof.Machine

/-!
PROOFS. The registers and the host's window: what reset, a read, a write and a step do to each register (10_state.md R22 to R30,
R38 to R40; 42_control.md R180).
-/

namespace Sys2Proof.Machine

/-! ### The register words as numbers -/

theorem toNat_append_eq {m n : Nat} (x : BitVec m) (y : BitVec n) : (x ++ y).toNat = x.toNat * 2 ^ n + y.toNat := by
  rw [BitVec.toNat_append, ← Nat.shiftLeft_add_eq_or_of_lt y.isLt, Nat.shiftLeft_eq]

theorem State.toNat_ctrlWord (s : State) : s.ctrlWord.toNat = 0x100 * s.rel.toNat := by
  simp only [State.ctrlWord, toNat_append_eq, BitVec.toNat_ofBool, BitVec.toNat_ofNat]
  omega

theorem State.toNat_causeWord (s : State) : s.causeWord.toNat = s.cause.code.toNat := by
  simp only [State.causeWord, toNat_append_eq, BitVec.toNat_ofNat]
  omega

/-- STATUS is its four fields in their places (R25). -/
theorem State.toNat_statusWord (s : State) :
    s.statusWord.toNat = s.st.code.toNat + 4 * s.phase.code.toNat + 8 * s.full.toNat + 16 * s.job.toNat := by
  simp only [State.statusWord, toNat_append_eq, BitVec.toNat_ofBool, BitVec.toNat_ofNat]
  omega

/-- Settles O1, register by register. -/
theorem resetClearsEveryRegister : Obligations.ResetClearsEveryRegister := by
  intro p
  refine ⟨fun r => BitVec.eq_of_toNat_eq ?_, rfl, rfl, rfl, rfl, rfl, rfl⟩
  cases r with
  | ctrl => exact State.toNat_ctrlWord _
  | status => exact State.toNat_statusWord _
  | cause => exact State.toNat_causeWord _
  | cap | srcLen | scrLen | sp | dp => rfl

/-! ### While a job runs -/

/-- Settles O43: R40's test comes before REL is stored. -/
theorem controlOperationsAreIgnoredWhileRunning : Obligations.ControlOperationsAreIgnoredWhileRunning := by
  intro i s hmode hrun
  obtain ⟨rel, perform, hexec⟩ := exec_ctrl_template hmode s
  rw [hexec, State.ctrlOperation, if_pos hrun]

/-- Settles O44, by the host's moves. -/
theorem hostActionsWhileRunningChangeNothing : Obligations.HostActionsWhileRunningChangeNothing := by
  intro s a hlegal hrun hturn
  obtain ⟨t, hstep, hmove⟩ := step_of_hostTurn hlegal hturn
  exact ⟨t, hstep, hmove.of_running hrun⟩

/-! ### Reads of the register window -/

theorem step_of_regRead {s : State} {offset : BitVec 6} (hlegal : s.cause ≠ .illegalCommand)
    (hturn : s.nextTurn = .host (.regRead offset)) : step s = .next (s.popTurn.readReg offset) := by
  rw [step_of_legal hlegal, hturn]
  rfl

theorem State.readReg_status (s : State) : s.readReg Reg.status.offset = s.answer s.statusWord := by
  simp [State.readReg, State.regValue]

/-- Reserved and misaligned offsets hold no register (R22). -/
theorem regAt_eq_none : ∀ offset : BitVec 6, 0x20 ≤ offset.toNat ∨ offset.toNat % 4 ≠ 0 → regAt offset = none := by decide

/-- Settles O47: STATUS answers its word running or not, and the word is its fields. -/
theorem statusReadsItsFields : Obligations.StatusReadsItsFields := by
  intro s hlegal hturn
  refine ⟨_, (step_of_regRead hlegal hturn).trans (congrArg _ s.popTurn.readReg_status), rfl, ?_⟩
  have hword := State.toNat_statusWord s
  have hst := s.st.code.isLt
  have hphase := s.phase.code.isLt
  have hfull := s.full.toNat_lt
  have hstField : s.statusWord.toNat % 4 = s.st.code.toNat := by omega
  have hphaseField : s.statusWord.toNat / 4 % 2 = s.phase.code.toNat := by omega
  have hfullField : s.statusWord.toNat / 8 % 2 = s.full.toNat := by omega
  have hjobField : s.statusWord.toNat / 16 = s.job.toNat := by omega
  exact ⟨hstField.trans (by cases s.st <;> rfl), hphaseField.trans (by cases s.phase <;> rfl),
    hfullField.trans (by cases s.full <;> rfl), hjobField⟩

/-- The answer of a read while no job runs. -/
def State.windowWord (s : State) (offset : BitVec 6) : Word :=
  match regAt offset with
  | none => 0#32
  | some r => s.regValue r

theorem State.readReg_eq_windowWord {s : State} (hst : s.st ≠ .running) (offset : BitVec 6) :
    s.readReg offset = s.answer (s.windowWord offset) := by
  cases hr : regAt offset <;> simp [State.readReg, State.windowWord, hr, hst]

theorem State.windowWord_offset (s : State) (r : Reg) : s.windowWord r.offset = s.regValue r := by
  simp [State.windowWord]

/-- An offset is a register's when their numbers are equal. -/
theorem State.windowWord_of_toNat (s : State) {offset : BitVec 6} (r : Reg) (h : offset.toNat = r.offset.toNat) :
    s.windowWord offset = s.regValue r := by
  rw [BitVec.eq_of_toNat_eq h, State.windowWord_offset]

/-- Settles O48: a read answers the word of the register at the offset, or 0 where there is none. -/
theorem registerWindowReads : Obligations.RegisterWindowReads := by
  intro s offset hlegal hst hturn
  have hread := State.readReg_eq_windowWord (s := s.popTurn) hst offset
  refine ⟨_, (step_of_regRead hlegal hturn).trans (congrArg _ hread), rfl, fun h => ?_, fun h => ?_,
    s.popTurn.windowWord_of_toNat .cap, s.popTurn.windowWord_of_toNat .srcLen, s.popTurn.windowWord_of_toNat .scrLen,
    s.popTurn.windowWord_of_toNat .sp, s.popTurn.windowWord_of_toNat .dp, fun h => ?_⟩
  · rw [State.answer_hostData, s.popTurn.windowWord_of_toNat .ctrl h]
    exact (State.toNat_ctrlWord s).trans (by cases s.rel <;> rfl)
  · rw [State.answer_hostData, s.popTurn.windowWord_of_toNat .cause h]
    exact (State.toNat_causeWord s).trans (by cases s.cause <;> rfl)
  · rw [State.answer_hostData, State.windowWord, regAt_eq_none offset h]

/-! ### Writes of the register window -/

/-- Settles O49: a write at a register's offset is the write of that register; at any other offset it is ignored. -/
theorem registerWindowWrites : Obligations.RegisterWindowWrites := by
  intro s offset x hlegal hst hctrl hturn
  rw [step_of_legal hlegal, hturn]
  change ((s.popTurn.hostAction (.regWrite offset x)).outcome s.popTurn) = _
  cases hr : regAt offset with
  | none =>
    have hno : ∀ r : Reg, offset.toNat ≠ r.offset.toNat := fun r h => by
      rw [BitVec.eq_of_toNat_eq h, regAt_offset] at hr
      cases hr
    rw [if_neg (by exact hno .cap), if_neg (by exact hno .srcLen), if_neg (by exact hno .scrLen)]
    simp [State.hostAction, hr, Action.outcome, State.popTurn]
  | some r =>
    obtain rfl := regAt_eq_some hr
    cases r with
    | ctrl => exact absurd rfl hctrl
    | _ => simp [State.hostAction, Reg.offset, regAt, Action.outcome, State.writeReg, hst, State.popTurn]

/-! ### What changes the host's registers -/

/-- The engine leaves the host's registers and the sizes; only the end of an LCW phase stores SCR_LEN (R113). -/
theorem EngineMove.registers {s t : State} (h : EngineMove s t) :
    t.cap = s.cap ∧ t.srcLen = s.srcLen ∧ t.rel = s.rel
      ∧ (t.scrLen = s.scrLen ∨ (s.job ≠ jobClear ∧ s.phase = .lcw ∧ t.scrLen = s.dp)) := by
  cases h with
  | fillsBuffer hjob hphase => simp [hjob, hphase]
  | endsLcw hjob hphase hsp => simp [hjob, hphase]
  | clears | endsXd | faults | writesScr | updatesFrm | skips => simp

/-- A host move stores the value written in the register written, and only while no job runs (R40). -/
theorem HostMove.registers {s t : State} {a : HostAction} (h : HostMove s a t) :
    (t.cap = s.cap ∨ (s.st ≠ .running ∧ a = .regWrite 0x0C#6 t.cap))
    ∧ (t.srcLen = s.srcLen ∨ (s.st ≠ .running ∧ a = .regWrite 0x10#6 t.srcLen))
    ∧ (t.rel = s.rel ∨ (s.st ≠ .running ∧ ∃ x : Word, a = .regWrite 0x00#6 x ∧ t.rel = x.getLsbD 8))
    ∧ (t.scrLen = s.scrLen ∨ (s.st ≠ .running ∧ a = .regWrite 0x14#6 t.scrLen)) := by
  cases h with
  | ignored | answers => simp
  | storesCap hst x ha | storesSrcLen hst x ha | storesScrLen hst x ha => simp [hst, ha]
  | pokes => simp [State.poke]
  | storesRel hst x ha => exact ⟨.inl rfl, .inl rfl, .inr ⟨hst, x, ha, rfl⟩, .inl rfl⟩
  | starts hst x ha op => exact ⟨.inl (by simp), .inl (by simp), .inr ⟨hst, x, ha, by simp⟩, .inl (by simp)⟩
  | reserves hst x ha k hk => exact ⟨.inl rfl, .inl rfl, .inr ⟨hst, x, ha, rfl⟩, .inl rfl⟩

/-- Settles O52, turn by turn. -/
theorem hostRegistersChangeOnlyByTheHost : Obligations.HostRegistersChangeOnlyByTheHost := by
  intro s t hstep
  have hlegal := legal_of_step hstep
  obtain ⟨hturn, rfl⟩ | ⟨-, -, rfl⟩ | ⟨hturn, hrun, hmove⟩ | ⟨a, hturn, hmove⟩ := step_moves hstep
  · exact ⟨.inr (.inl hturn), .inr (.inl hturn), .inr (.inl hturn), .inr (.inl hturn), rfl⟩
  · exact ⟨.inl rfl, .inl rfl, .inl rfl, .inl rfl, rfl⟩
  · obtain ⟨hcap, hsrcLen, hrel, hscrLen⟩ := hmove.registers
    refine ⟨.inl hcap, .inl hsrcLen, .inl hrel, hscrLen.imp_right fun ⟨hjob, hphase, hdp⟩ => ?_, hmove.params⟩
    exact .inr (.inr ⟨⟨hlegal, hturn, hrun, hjob⟩, hphase, hdp⟩)
  · obtain ⟨hcap, hsrcLen, hrel, hscrLen⟩ := hmove.registers
    rw [hturn]
    exact ⟨hcap.imp_right fun ⟨hst, ha⟩ => .inr ⟨hst, congrArg _ ha⟩,
      hsrcLen.imp_right fun ⟨hst, ha⟩ => .inr ⟨hst, congrArg _ ha⟩,
      hrel.imp_right fun ⟨hst, x, ha, hx⟩ => .inr ⟨hst, x, congrArg _ ha, hx⟩,
      hscrLen.imp_right fun ⟨hst, ha⟩ => .inr (.inl ⟨hst, congrArg _ ha⟩), hmove.params⟩

end Sys2Proof.Machine

/-!
PROOFS. The back-reference copies of the LCW engine (40_lcw.md R102, R103, R108, R110): a copy repeats the bytes between its source
and DP as a pattern.
-/

namespace Sys2Proof.Machine

/-- CopyBack as a pattern: byte `i` is the byte at `src + i % (dst - src)` as it stood before (R102). -/
theorem Memory.read_copyBack_pattern (draw : Nat → Byte) (n src dst i : Nat) (m : Memory) (h : src < dst) (hi : i < n) :
    (m.copyBack draw n src dst).read draw (dst + i) = m.read draw (src + i % (dst - src)) := by
  induction i using Nat.strong_induction_on with
  | _ i ih =>
    rw [Memory.read_copyBack_inside draw n src dst i m h hi]
    by_cases hbelow : i < dst - src
    · rw [Memory.read_copyBack_outside _ _ _ _ _ _ (by omega), Nat.mod_eq_of_lt hbelow]
    · rw [Nat.mod_eq_sub_mod (by omega), ← ih (i - (dst - src)) (by omega) (by omega)]
      congr 1
      omega

/-- Where SRC and FRM are as they were and SCR reads the same outside `[a, a + n)`, only those bytes were written. -/
theorem State.onlyWrote_scr {s t : State} {a n : Nat} (hsrc : t.src = s.src) (hfrm : t.frm = s.frm) (hboot : t.boot = s.boot)
    (hscr : ∀ b, ¬ (a ≤ b ∧ b < a + n) → t.peek .scr b = s.peek .scr b) : s.onlyWrote t .scr a n := by
  intro m b hout
  cases m with
  | src => exact State.peek_congr (by simpa using hsrc) hboot b
  | scr => exact hscr b (fun hin => hout ⟨rfl, hin⟩)
  | frm => exact State.peek_congr (by simpa using hfrm) hboot b

/-- A number that some register holds at least is not cut by storing it (log 17). -/
theorem toNat_ofNat_of_le {n : Nat} {x : Word} (h : n ≤ x.toNat) : (BitVec.ofNat 32 n).toNat = n := by
  rw [BitVec.toNat_ofNat, Nat.mod_eq_of_lt (h.trans_lt x.isLt)]

/-- A back-reference from `source`, an earlier position of the output, completes when its bytes are there and there is room
(R102 to R104). -/
theorem State.lcwCopy_completes {s : State} {len count source : Nat} (hsource : source < s.dp.toNat)
    (hsp : s.sp.toNat + len ≤ s.srcLen.toNat) (hdp : s.dp.toNat + count ≤ s.cap.toNat) (hcap : s.cap.toNat ≤ s.params.bufSize) :
    ∃ t, s.lcwCopy len count source = .next t
      ∧ t.sp.toNat = s.sp.toNat + len ∧ t.dp.toNat = s.dp.toNat + count
      ∧ (∀ i, i < count → t.peek .scr (s.dp.toNat + i) = s.peek .scr (source + i % (s.dp.toNat - source)))
      ∧ s.onlyWrote t .scr s.dp.toNat count
      ∧ t = { s with sp := t.sp, dp := t.dp, scr := t.scr } := by
  have hok : ∀ x, some (source : Int) = some x → s.backrefOk x = true := by
    rintro x ⟨⟩
    exact (s.backrefOk_iff _).mpr ⟨by omega, by omega⟩
  have hspKept := toNat_ofNat_of_le hsp
  have hdpKept := toNat_ofNat_of_le hdp
  refine ⟨_, State.lcwCommand_next hsp hok hdp hcap, hspKept, hdpKept, fun i hi => ?_, State.onlyWrote_scr rfl rfl rfl fun b hb => ?_, rfl⟩
  · exact Memory.read_copyBack_pattern _ count source _ i _ hsource hi
  · exact Memory.read_copyBack_outside _ count source _ b _ hb

/-- The source of LCW.ABS and LCW.ABSL is the position `q` of either address mode (R24, R87). -/
theorem State.absSource_eq {s : State} {p : Half} {q : Nat} (h : if s.rel then q + p.toNat = s.dp.toNat else q = p.toNat) :
    s.absSource p = (q : Int) := by
  unfold State.absSource State.distSource
  split at h
  · rw [if_pos ‹_›]
    omega
  · rw [if_neg ‹_›, h]

/-- Settles O24. -/
theorem lcwAbsCopiesFromItsSource : Obligations.LcwAbsCopiesFromItsSource := by
  intro c p q s hq hsource hsp hdp hcap
  change ∃ t, s.lcwCopy 3 (c.toNat + 3) (s.absSource p) = .next t ∧ _
  rw [State.absSource_eq hq]
  exact State.lcwCopy_completes hsource hsp hdp hcap

/-- Settles O26. -/
theorem lcwAbslCopiesFromItsSource : Obligations.LcwAbslCopiesFromItsSource := by
  intro n p q s hq hsource hsp hdp hcap
  change ∃ t, s.lcwCopy 5 n.toNat (s.absSource p) = .next t ∧ _
  rw [State.absSource_eq hq]
  exact State.lcwCopy_completes hsource hsp hdp hcap

end Sys2Proof.Machine

/-!
PROOFS. A legal state always has a next step, and a running job's engine turns do the same to the block whatever the host does between
them (10_state.md R38, R40; 20_memory.md R62; the spec's inferences R65 and R242).
-/

namespace Sys2Proof.Machine

/-! ### Progress -/

theorem State.lcwCommand_completes {s : State} (hcap : s.cap.toNat ≤ s.params.bufSize) (len count : Nat) (source : Option Int)
    (write : Memory → Memory) : ∃ t, s.lcwCommand len count source write = .next t := by
  unfold State.lcwCommand
  split_ifs with hlen hsource hroom houtside
  · exact ⟨_, rfl⟩
  · exact ⟨_, rfl⟩
  · exact ⟨_, rfl⟩
  · have := (s.outside_iff count).mp houtside
    omega
  · exact ⟨_, rfl⟩

theorem State.xdUpdate_completes {s : State} (hcap : s.cap.toNat ≤ s.params.bufSize) (len : Nat) (us : List Byte) :
    ∃ t, s.xdUpdate len us = .next t := by
  unfold State.xdUpdate
  split_ifs with hlen hroom houtside
  · exact ⟨_, rfl⟩
  · exact ⟨_, rfl⟩
  · have := (s.outside_iff us.length).mp houtside
    omega
  · exact ⟨_, rfl⟩

theorem State.xdSkip_completes (s : State) (len count : Nat) : ∃ t, s.xdSkip len count = .next t := by
  unfold State.xdSkip
  split_ifs <;> exact ⟨_, rfl⟩

/-- With CAP within the memory every instruction completes or faults as the spec says (R65; log 8). -/
theorem exec_completes {s : State} (hcap : s.cap.toNat ≤ s.params.bufSize) (i : Instr) : ∃ t, exec i s = .next t := by
  cases hmode : i.mode with
  | lcw =>
    by_cases hend : i = .lcwEnd
    · exact ⟨_, hend ▸ exec_lcwEnd s⟩
    · obtain ⟨count, source, write, -, hexec⟩ := exec_lcw_template hmode hend s
      rw [hexec]
      exact State.lcwCommand_completes hcap _ _ _ _
  | xd =>
    by_cases hend : i = .xdEnd
    · exact ⟨_, hend ▸ exec_xdEnd s⟩
    · obtain ⟨us, hexec⟩ | ⟨count, hexec⟩ := exec_xd_template hmode hend s
      · rw [hexec]
        exact State.xdUpdate_completes hcap _ _
      · rw [hexec]
        exact State.xdSkip_completes _ _ _
  | ctrl =>
    obtain ⟨rel, perform, hexec⟩ := exec_ctrl_template hmode s
    exact ⟨_, hexec⟩

/-- The windows of R65 inside the memories, an engine turn of a running job has a next state. -/
theorem engineAction_completes {s : State} (hs : s.runningOk) : ∃ t, s.engineAction.outcome s = .next t := by
  obtain ⟨-, hact⟩ | ⟨hrun, hjob, hact⟩ | ⟨-, -, -, -, hact⟩ | ⟨hrun, hjob, -, hact⟩ := s.engineAction_cases
  · exact ⟨_, by rw [hact]; rfl⟩
  · obtain ⟨-, -, hcap, -⟩ := hs hrun
    exact ⟨_, by rw [hact, Action.outcome, State.clearStep, if_neg (by omega)]⟩
  · exact ⟨_, by rw [hact]; rfl⟩
  · obtain ⟨-, -, hcap, -, -, hsize⟩ := hs hrun
    rw [hact]
    obtain ⟨i, rest, -, hfetch⟩ | ⟨-, hout, -⟩ | ⟨-, -, hfetch⟩ := s.fetch_cases
    · rw [hfetch]
      exact exec_completes hcap i
    · exact absurd (hsize hjob) (by omega)
    · exact ⟨_, by rw [hfetch]; rfl⟩

/-- Progress: a state that meets the invariant has a next step. -/
theorem State.Inv.completes {s : State} (hs : s.Inv) : Completes s := by
  obtain ⟨-, -, ⟨hlegal, -⟩, hrunning⟩ := hs
  cases hturn : s.nextTurn with
  | engine =>
    obtain ⟨t, ht⟩ := engineAction_completes (s := s.popTurn) hrunning
    exact ⟨t, (step_of_engineTurn hlegal hturn).trans ht⟩
  | host a =>
    obtain ⟨t, ht, -⟩ := step_of_hostTurn hlegal hturn
    exact ⟨t, ht⟩
  | reset => exact ⟨_, by rw [step_of_legal hlegal, hturn]; rfl⟩

theorem stepOrStay_of_step {s t : State} (h : step s = .next t) : stepOrStay s = t := by
  simp [stepOrStay, h]

/-! ### The engine does not see the model's own record -/

/-- An outcome with its state cut to the block. -/
def outcomeBlock : Result → Result
  | .next t => .next t.block
  | .fault r => .fault r
  | .refused r => .refused r

theorem State.lcwCommand_block (s : State) (len count : Nat) (source : Option Int) (write : Memory → Memory) :
    s.block.lcwCommand len count source write = outcomeBlock (s.lcwCommand len count source write) := by
  have hsource : source.any (fun x => !s.block.backrefOk x) = source.any (fun x => !s.backrefOk x) := rfl
  have houtside : s.block.outside count = s.outside count := rfl
  unfold State.lcwCommand
  rw [hsource, houtside, State.block_srcLen, State.block_sp, State.block_cap, State.block_dp]
  split_ifs <;> rfl

theorem State.xdUpdate_block (s : State) (len : Nat) (us : List Byte) :
    s.block.xdUpdate len us = outcomeBlock (s.xdUpdate len us) := by
  have houtside : s.block.outside us.length = s.outside us.length := rfl
  unfold State.xdUpdate
  rw [houtside, State.block_scrLen, State.block_sp, State.block_cap, State.block_dp]
  split_ifs <;> rfl

theorem State.xdSkip_block (s : State) (len count : Nat) : s.block.xdSkip len count = outcomeBlock (s.xdSkip len count) := by
  unfold State.xdSkip
  rw [State.block_cap, State.block_dp]
  split_ifs <;> rfl

theorem State.lcwTerminate_block (s : State) (full : Bool) : s.block.lcwTerminate full = (s.lcwTerminate full).block := by
  unfold State.lcwTerminate
  rw [State.block_job]
  split_ifs <;> rfl

theorem State.clearStep_block (s : State) : s.block.clearStep = outcomeBlock s.clearStep := by
  unfold State.clearStep
  rw [State.block_params, State.block_cap]
  split_ifs <;> rfl

/-- A command does to the block what it does to the state. -/
theorem exec_block {i : Instr} (hmode : i.mode ≠ .ctrl) (s : State) : exec i s.block = outcomeBlock (exec i s) := by
  cases i with
  | lcwRel | lcwLit | lcwAbs | lcwFill | lcwAbsl => exact State.lcwCommand_block s _ _ _ _
  | lcwEnd => exact congrArg Host.Outcome.next (State.lcwTerminate_block (s.advance 1 0) false)
  | xdFill | xdXor | xdXorl | xdFilll => exact State.xdUpdate_block s _ _
  | xdSkip | xdSkipl => exact State.xdSkip_block s _ _
  | xdEnd => rfl
  | _ => exact absurd rfl hmode

theorem State.fetchCode_block (s : State) : s.block.fetchCode = s.fetchCode := rfl

theorem State.fetch_block (s : State) : s.block.fetch.outcome s.block = outcomeBlock (s.fetch.outcome s) := by
  unfold State.fetch
  rw [State.fetchCode_block]
  cases hdec : decode s.fetchCode with
  | command i rest =>
    obtain ⟨hmode, -⟩ := State.fetched_within hdec
    exact exec_block (hmode ▸ s.phase.mode_ne_ctrl) s
  | inputOverrun =>
    dsimp only
    rw [State.block_params, State.block_phase, show s.block.inLen = s.inLen from rfl]
    split_ifs <;> rfl

theorem State.lcwFetch_block (s : State) : s.block.lcwFetch.outcome s.block = outcomeBlock (s.lcwFetch.outcome s) := by
  unfold State.lcwFetch
  by_cases hfull : s.dp = s.cap
  · rw [if_pos hfull, if_pos (by exact hfull)]
    exact congrArg Host.Outcome.next (s.lcwTerminate_block true)
  · rw [if_neg hfull, if_neg (by exact hfull)]
    exact s.fetch_block

/-- An engine turn does to the block what it does to the state. -/
theorem State.engineAction_block (s : State) :
    s.block.engineAction.outcome s.block = outcomeBlock (s.engineAction.outcome s) := by
  unfold State.engineAction
  rw [State.block_st, State.block_job, State.block_phase]
  split_ifs
  · rfl
  · exact s.clearStep_block
  · cases s.phase with
    | lcw => exact s.lcwFetch_block
    | xd => exact s.fetch_block

theorem step_block {s : State} (hturn : s.nextTurn = .engine) : step s.block = outcomeBlock (step s) := by
  by_cases hlegal : s.cause = .illegalCommand
  · simp [step_eq_outcome, State.nextAction, hlegal, Action.outcome, outcomeBlock]
  · rw [step_of_engineTurn hlegal hturn, step_of_engineTurn (s := s.block) hlegal rfl]
    exact s.popTurn.engineAction_block

theorem stepOrStay_block {s : State} (hturn : s.nextTurn = .engine) : stepOrStay s.block = (stepOrStay s).block := by
  unfold stepOrStay
  rw [step_block hturn]
  cases step s <;> rfl

/-! ### Runs of engine turns -/

theorem EngineMove.turns {s t : State} (h : EngineMove s t) : t.turns = s.turns := by
  cases h <;> simp

theorem HostMove.turns {s t : State} {a : HostAction} (h : HostMove s a t) : t.turns = s.turns := by
  cases h <;> simp [State.poke, State.reserved]

/-- Every step takes its turn from the list. -/
theorem turns_of_step {s t : State} (h : step s = .next t) : t.turns = s.turns.tail := by
  obtain ⟨-, rfl⟩ | ⟨-, -, rfl⟩ | ⟨-, -, hmove⟩ | ⟨a, -, hmove⟩ := step_moves h
  · rfl
  · rfl
  · exact hmove.turns
  · exact hmove.turns

theorem State.nextTurn_of_engineOnly {s : State} (h : s.engineOnly) : s.nextTurn = .engine := by
  simp [State.nextTurn, h]

theorem engineOnly_stepOrStay {s : State} (h : s.engineOnly) : (stepOrStay s).engineOnly := by
  unfold stepOrStay
  cases hstep : step s with
  | next t => exact (turns_of_step hstep).trans (by rw [h]; rfl)
  | fault r => exact h
  | refused r => exact h

theorem steps_succ (n : Nat) (s : State) : steps (n + 1) s = steps n (stepOrStay s) := rfl

/-- Engine turns alone make of a state's block what they make of the state (R191). -/
theorem steps_block {s : State} (h : s.engineOnly) (n : Nat) : steps n s.block = (steps n s).block := by
  induction n generalizing s with
  | zero => rfl
  | succ n ih =>
    rw [steps_succ, steps_succ, stepOrStay_block (State.nextTurn_of_engineOnly h)]
    exact ih (engineOnly_stepOrStay h)

/-- Once the engine rests it goes on resting (R217). -/
theorem steps_not_running {s : State} (h : s.engineOnly) (hst : s.st ≠ .running) (n : Nat) : (steps n s).st ≠ .running := by
  induction n generalizing s with
  | zero => exact hst
  | succ n ih =>
    refine ih (engineOnly_stepOrStay h) ?_
    unfold stepOrStay
    cases hstep : step s with
    | next t =>
      rw [step_of_engineTurn (legal_of_step hstep) (State.nextTurn_of_engineOnly h)] at hstep
      obtain ⟨-, rfl⟩ | ⟨hrun, -⟩ := engineAction_moves hstep
      · exact hst
      · exact absurd hrun hst
    | fault r => exact hst
    | refused r => exact hst

/-! ### Host turns between the engine's -/

/-- How many of the turns are the engine's. -/
def engineTurns (ts : List Turn) : Nat := (ts.filter (fun turn => decide (turn = .engine))).length

@[simp] theorem engineTurns_engine (ts : List Turn) : engineTurns (.engine :: ts) = engineTurns ts + 1 := by
  simp [engineTurns]

@[simp] theorem engineTurns_host (a : HostAction) (ts : List Turn) : engineTurns (.host a :: ts) = engineTurns ts := by
  simp [engineTurns]

/-- While a job runs a host turn leaves the block as it was (R38, R40, R62). -/
theorem HostMove.block_of_running {s t : State} {a : HostAction} (h : HostMove s a t) (hrun : s.st = .running) :
    t.block = s.block := by
  rw [h.of_running hrun]
  rfl

/-- The block after the turns and one more engine turn is what the engine's turns alone make of it, as long as the job still runs
after the engine's turns among them. -/
theorem block_steps_of_turns {ts : List Turn} (hreset : ∀ turn ∈ ts, turn ≠ .reset) {s : State} (hs : s.Inv)
    (hturns : s.turns = ts ++ [.engine]) (hrun : (steps (engineTurns ts) s.block).st = .running) :
    (steps (ts.length + 1) s).block = steps (engineTurns ts + 1) s.block := by
  induction ts generalizing s with
  | nil => exact (stepOrStay_block (by simp [State.nextTurn, hturns])).symm
  | cons turn ts ih =>
    obtain ⟨t, hstep⟩ := hs.completes
    have ht : t.turns = ts ++ [.engine] := by rw [turns_of_step hstep, hturns]; rfl
    have hreset' : ∀ turn ∈ ts, turn ≠ .reset := fun turn hmem => hreset turn (List.mem_cons_of_mem _ hmem)
    have ih := ih hreset' (State.inv_of_step hs hstep) ht
    rw [List.length_cons, steps_succ _ s, stepOrStay_of_step hstep]
    cases turn with
    | engine =>
      have hblock : stepOrStay s.block = t.block := by
        rw [stepOrStay_block (by simp [State.nextTurn, hturns]), stepOrStay_of_step hstep]
      rw [engineTurns_engine, steps_succ _ s.block, hblock] at hrun ⊢
      exact ih hrun
    | host a =>
      have hrunning : s.st = .running := by
        by_contra hst
        exact steps_not_running (s := s.block) rfl hst _ hrun
      have hblock : t.block = s.block := by
        obtain ⟨t', hstep', hmove⟩ := step_of_hostTurn (a := a) (legal_of_step hstep) (by simp [State.nextTurn, hturns])
        obtain rfl : t' = t := by simpa [hstep'] using hstep
        exact hmove.block_of_running hrunning
      rw [engineTurns_host, ← hblock] at hrun ⊢
      exact ih hrun
    | reset => exact absurd rfl (hreset _ List.mem_cons_self)

/-- Settles O53: both runs are the engine's own run of the block. -/
theorem hostTurnsDoNotDisturbARunningJob : Obligations.HostTurnsDoNotDisturbARunningJob := by
  intro s ts hs hreset k hrun
  have halone (n : Nat) : (steps n { s with turns := [] }).block = steps n s.block := (steps_block (by rfl) n).symm
  have hrunBlock : (steps k s.block).st = .running := by
    rw [← halone]
    exact hrun
  rw [halone]
  exact block_steps_of_turns (s := { s with turns := ts ++ [.engine] }) hreset hs rfl hrunBlock

end Sys2Proof.Machine

/-!
PROOFS. The fixed-length forms of the two tables and their operand fields as numbers of the bytes (30_encoding.md R61, R81, R82, R84,
R85, R87): which form a command byte or an XD word selects, then what its fields are.
-/

namespace Sys2Proof

/-! ### Bits and fields as numbers -/

theorem getLsbD_eq_false_iff {w : Nat} (x : BitVec w) (i : Nat) : x.getLsbD i = false ↔ x.toNat / 2 ^ i % 2 = 0 := by
  rw [← BitVec.testBit_toNat, Nat.testBit_eq_decide_div_mod_eq, decide_eq_false_iff_not]
  omega

/-- The low bits of a word are its number modulo their range. -/
theorem toNat_lowBits {w : Nat} (x : BitVec w) (n : Nat) : (x.extractLsb' 0 n).toNat = x.toNat % 2 ^ n := by
  rw [BitVec.extractLsb'_toNat, Nat.shiftRight_zero]

/-- R61: a 16-bit operand is the little-endian number of its bytes. -/
theorem toNat_half (lo hi : Byte) : (half lo hi).toNat = lo.toNat + 256 * hi.toNat := by
  rw [half, Machine.toNat_append_eq]
  omega

/-! ### The forms a command byte selects -/

theorem decodeLcw_eq_rel {b0 : Byte} (h : b0.toNat < 0x80) (bs : List Byte) : decodeLcw (b0 :: bs) = decodeLcwRel b0 bs := by
  have h7 : b0.getLsbD 7 = false := by
    rw [getLsbD_eq_false_iff]
    omega
  rw [decodeLcw, if_pos h7]

theorem decodeLcw_eq_abs {b0 : Byte} (hlo : 0xC0 ≤ b0.toNat) (hhi : b0.toNat ≤ 0xFD) (bs : List Byte) :
    decodeLcw (b0 :: bs) = decodeLcwAbs b0 bs := by
  have h7 : ¬ b0.getLsbD 7 = false := by
    rw [getLsbD_eq_false_iff]
    omega
  have h6 : ¬ b0.getLsbD 6 = false := by
    rw [getLsbD_eq_false_iff]
    omega
  have hcount : (b0.extractLsb' 0 6).toNat < 0x3E := by
    rw [toNat_lowBits]
    omega
  have hFill : b0.extractLsb' 0 6 ≠ 0x3E#6 := fun h => by simp [h] at hcount
  have hAbsl : b0.extractLsb' 0 6 ≠ 0x3F#6 := fun h => by simp [h] at hcount
  rw [decodeLcw, if_neg h7, if_neg h6, if_neg hFill, if_neg hAbsl]

theorem decodeLcw_eq_fill (bs : List Byte) : decodeLcw (0xFE#8 :: bs) = decodeLcwFill bs := rfl

theorem decodeLcw_eq_absl (bs : List Byte) : decodeLcw (0xFF#8 :: bs) = decodeLcwAbsl bs := rfl

theorem decodeXd_eq_fill (bs : List Byte) : decodeXd (0x00#8 :: bs) = decodeXdFill bs := rfl

theorem decodeXd_eq_long (lo hi : Byte) (bs : List Byte) :
    decodeXd (0x80#8 :: lo :: hi :: bs) = decodeXdLong (half lo hi) bs := rfl

theorem decodeXd_eq_skip {b0 : Byte} (h : 0x81 ≤ b0.toNat) (bs : List Byte) :
    decodeXd (b0 :: bs) = .command (.xdSkip (b0.extractLsb' 0 7)) bs := by
  have hLong : b0 ≠ 0x80#8 := fun hb => by simp [hb] at h
  have hFill : b0 ≠ 0x00#8 := fun hb => by simp [hb] at h
  have h7 : ¬ b0.getLsbD 7 = false := by
    rw [getLsbD_eq_false_iff]
    have := b0.isLt
    omega
  exact (if_neg hLong).trans ((if_neg hFill).trans (if_neg h7))

/-! ### The long forms an XD word selects -/

theorem decodeXdLong_eq_skipl {w : Half} (hlo : 1 ≤ w.toNat) (hhi : w.toNat ≤ 0x7FFF) (bs : List Byte) :
    decodeXdLong w bs = .command (.xdSkipl (w.extractLsb' 0 15)) bs := by
  have hEnd : w ≠ 0#16 := fun hw => by simp [hw] at hlo
  have h15 : w.getLsbD 15 = false := by
    rw [getLsbD_eq_false_iff]
    omega
  rw [decodeXdLong, if_neg hEnd, if_pos h15]

theorem decodeXdLong_eq_filll {w : Half} (h : 0xC000 ≤ w.toNat) (bs : List Byte) :
    decodeXdLong w bs = decodeXdFilll w bs := by
  have hw := w.isLt
  have hEnd : w ≠ 0#16 := fun hw => by simp [hw] at h
  have h15 : ¬ w.getLsbD 15 = false := by
    rw [getLsbD_eq_false_iff]
    omega
  have h14 : ¬ w.getLsbD 14 = false := by
    rw [getLsbD_eq_false_iff]
    omega
  rw [decodeXdLong, if_neg hEnd, if_neg h15, if_neg h14]

/-! ### The fields -/

/-- R82, R87: the count of LCW.REL is bits 6:4 of its command byte, the distance its low nibble and the next byte. -/
theorem decode_lcwRel {b0 : Byte} (b1 : Byte) (rest : List Byte) (h : b0.toNat < 0x80) :
    ∃ (c : BitVec 3) (d : BitVec 12), decode (.lcw (b0 :: b1 :: rest)) = .command (.lcwRel c d) rest
      ∧ c.toNat = b0.toNat / 16 ∧ d.toNat = 256 * (b0.toNat % 16) + b1.toNat := by
  refine ⟨_, _, decodeLcw_eq_rel h (b1 :: rest), ?_, ?_⟩
  · rw [BitVec.extractLsb'_toNat, Nat.shiftRight_eq_div_pow]
    omega
  · rw [Machine.toNat_append_eq, toNat_lowBits]
    omega

theorem decode_lcwAbs {b0 : Byte} (lo hi : Byte) (rest : List Byte) (hlo : 0xC0 ≤ b0.toNat) (hhi : b0.toNat ≤ 0xFD) :
    ∃ (c : BitVec 6) (p : Half), decode (.lcw (b0 :: lo :: hi :: rest)) = .command (.lcwAbs c p) rest
      ∧ c.toNat = b0.toNat - 0xC0 ∧ p.toNat = lo.toNat + 256 * hi.toNat := by
  refine ⟨_, _, decodeLcw_eq_abs hlo hhi (lo :: hi :: rest), ?_, toNat_half lo hi⟩
  rw [toNat_lowBits]
  omega

theorem decode_xdSkip {b0 : Byte} (rest : List Byte) (h : 0x81 ≤ b0.toNat) :
    ∃ n : BitVec 7, decode (.xd (b0 :: rest)) = .command (.xdSkip n) rest ∧ n.toNat = b0.toNat - 0x80 := by
  refine ⟨_, decodeXd_eq_skip h rest, ?_⟩
  rw [toNat_lowBits]
  have := b0.isLt
  omega

theorem decode_xdSkipl {lo hi : Byte} (rest : List Byte) (hlo : 1 ≤ lo.toNat + 256 * hi.toNat)
    (hhi : lo.toNat + 256 * hi.toNat ≤ 0x7FFF) :
    ∃ n : BitVec 15, decode (.xd (0x80#8 :: lo :: hi :: rest)) = .command (.xdSkipl n) rest
      ∧ n.toNat = lo.toNat + 256 * hi.toNat := by
  rw [← toNat_half] at hlo hhi ⊢
  refine ⟨_, (decodeXd_eq_long lo hi rest).trans (decodeXdLong_eq_skipl hlo hhi rest), ?_⟩
  rw [toNat_lowBits, Nat.mod_eq_of_lt (by omega)]

theorem decode_xdFilll {lo hi : Byte} (v : Byte) (rest : List Byte) (h : 0xC000 ≤ lo.toNat + 256 * hi.toNat) :
    ∃ n : BitVec 14, decode (.xd (0x80#8 :: lo :: hi :: v :: rest)) = .command (.xdFilll n v) rest
      ∧ n.toNat = lo.toNat + 256 * hi.toNat - 0xC000 := by
  rw [← toNat_half] at h ⊢
  refine ⟨_, (decodeXd_eq_long lo hi (v :: rest)).trans (decodeXdLong_eq_filll h (v :: rest)), ?_⟩
  rw [toNat_lowBits]
  have := (half lo hi).isLt
  omega

/-- Settles O14, command by command. -/
theorem operandFieldsAreTheBytesNumbers : Obligations.OperandFieldsAreTheBytesNumbers :=
  ⟨fun _ b1 rest => decode_lcwRel b1 rest,
    fun _ lo hi rest => decode_lcwAbs lo hi rest,
    fun lo hi v rest => ⟨_, decodeLcw_eq_fill (lo :: hi :: v :: rest), toNat_half lo hi⟩,
    fun lo hi lo' hi' rest => ⟨_, _, decodeLcw_eq_absl (lo :: hi :: lo' :: hi' :: rest), toNat_half lo hi, toNat_half lo' hi'⟩,
    fun _ rest => decode_xdSkip rest,
    fun n v rest => decodeXd_eq_fill (n :: v :: rest),
    fun _ _ rest => decode_xdSkipl rest,
    fun _ _ v rest => decode_xdFilll v rest⟩

end Sys2Proof

/-!
PROOFS. The host's memory ports, and what changes each memory in a step (20_memory.md R60, R62; 42_control.md R186; the spec's
inference R192).
-/

namespace Sys2Proof.Machine

/-! ### What changes each memory -/

/-- The engine never writes SRC; only its LCW phase writes SCR, and only its XD phase and the CLEAR step write FRM. -/
theorem EngineMove.memories {s t : State} (h : EngineMove s t) :
    t.src = s.src
    ∧ (t.scr = s.scr ∨ (s.job ≠ jobClear ∧ s.phase = .lcw))
    ∧ (t.frm = s.frm ∨ (s.job ≠ jobClear ∧ s.phase = .xd) ∨ s.job = jobClear) := by
  cases h with
  | clears hjob hcap => exact ⟨rfl, .inl rfl, .inr (.inr hjob)⟩
  | writesScr hjob hphase => exact ⟨rfl, .inr ⟨hjob, hphase⟩, .inl rfl⟩
  | updatesFrm hjob hphase => exact ⟨rfl, .inl rfl, .inr (.inl ⟨hjob, hphase⟩)⟩
  | fillsBuffer | endsLcw | endsXd | faults | skips => simp

/-- A host move changes a memory only by a write of one of its bytes, while no job runs (R62). -/
theorem HostMove.mem {s t : State} {a : HostAction} (h : HostMove s a t) (m : Mem) :
    t.mem m = s.mem m ∨ (s.st ≠ .running ∧ ∃ b v, a = .memWrite m b v) := by
  cases h with
  | pokes hst m' b v ha hb =>
    by_cases hm : m = m'
    · subst hm
      exact .inr ⟨hst, b, v, ha⟩
    · exact .inl (State.setMem_mem_other s m' m _ hm)
  | starts hst x ha op => left; cases m <;> simp
  | ignored | answers | storesCap | storesSrcLen | storesScrLen | storesRel | reserves => left; cases m <;> rfl

/-- Settles O51, turn by turn. -/
theorem memoriesChangeOnlyByTheirWriters : Obligations.MemoriesChangeOnlyByTheirWriters := by
  intro s t hstep
  have hlegal := legal_of_step hstep
  obtain ⟨hturn, rfl⟩ | ⟨-, -, rfl⟩ | ⟨hturn, hrun, hmove⟩ | ⟨a, hturn, hmove⟩ := step_moves hstep
  · exact ⟨.inr (.inl hturn), .inr (.inl hturn), .inr (.inl hturn)⟩
  · exact ⟨.inl rfl, .inl rfl, .inl rfl⟩
  · obtain ⟨hsrc, hscr, hfrm⟩ := hmove.memories
    have hcodec (hjob : s.job ≠ jobClear) : s.codecTurn := ⟨hlegal, hturn, hrun, hjob⟩
    exact ⟨.inl hsrc, hscr.imp_right fun ⟨hjob, hphase⟩ => .inr (.inr ⟨hcodec hjob, hphase⟩),
      hfrm.imp_right fun hwriter => .inr (.inr (hwriter.imp (fun ⟨hjob, hphase⟩ => ⟨hcodec hjob, hphase⟩)
        fun hjob => ⟨hturn, hrun, hjob⟩))⟩
  · have hhost (m : Mem) : t.mem m = s.mem m ∨ (s.st ≠ .running ∧ ∃ b v, s.nextTurn = .host (.memWrite m b v)) :=
      (hmove.mem m).imp_right fun ⟨hst, b, v, ha⟩ => ⟨hst, b, v, hturn.trans (congrArg _ ha)⟩
    exact ⟨(hhost .src).imp_right .inr, (hhost .scr).imp_right fun hw => .inr (.inl hw),
      (hhost .frm).imp_right fun hw => .inr (.inl hw)⟩

/-! ### A host write of a memory byte -/

theorem step_of_memWrite {s : State} {m : Mem} {a : Nat} {v : Byte} (hlegal : s.cause ≠ .illegalCommand)
    (hturn : s.nextTurn = .host (.memWrite m a v)) : step s = .next (s.popTurn.hostPoke m a v) := by
  rw [step_of_legal hlegal, hturn]
  rfl

theorem State.hostPoke_inside {s : State} {m : Mem} {a : Nat} (hst : s.st ≠ .running) (ha : a < s.params.size m) (v : Byte) :
    s.hostPoke m a v = s.poke m a v := if_neg (by simp [hst, ha])

theorem State.hostPoke_outside {s : State} {m : Mem} {a : Nat} (ha : s.params.size m ≤ a) (v : Byte) :
    s.hostPoke m a v = s := if_pos (.inr ha)

/-- What every byte reads after a host write (R62). -/
theorem State.peek_hostPoke {s : State} (hst : s.st ≠ .running) (m m' : Mem) (a b : Nat) (v : Byte) :
    (s.hostPoke m a v).peek m' b = if m' = m ∧ b = a ∧ a < s.params.size m then v else s.peek m' b := by
  by_cases ha : a < s.params.size m
  · rw [State.hostPoke_inside hst ha]
    by_cases hm : m' = m
    · subst hm
      simp [State.peek_poke, ha]
    · simp [State.peek_poke_other, hm]
  · rw [State.hostPoke_outside (by omega)]
    simp [ha]

/-- A host memory write changes no register: with the memories put back, the state is as it was. -/
theorem State.hostPoke_registers (s : State) (m : Mem) (a : Nat) (v : Byte) :
    { s.hostPoke m a v with src := s.src, scr := s.scr, frm := s.frm } = s := by
  obtain hignored | ⟨-, -, hpoke⟩ := s.hostPoke_cases m a v
  · rw [hignored]
  · rw [hpoke]
    cases m <;> rfl

/-- Settles O45: the write is `hostPoke`, byte by byte. -/
theorem hostMemoryWriteStoresOneByte : Obligations.HostMemoryWriteStoresOneByte := by
  intro s m a v hlegal hst hturn
  exact ⟨_, step_of_memWrite hlegal hturn, fun m' b => State.peek_hostPoke (s := s.popTurn) hst m m' a b v,
    s.popTurn.hostPoke_registers m a v⟩

/-! ### A host read of a memory byte -/

theorem step_of_memRead {s : State} {m : Mem} {a : Nat} (hlegal : s.cause ≠ .illegalCommand)
    (hturn : s.nextTurn = .host (.memRead m a)) : step s = .next (s.popTurn.hostPeek m a) := by
  rw [step_of_legal hlegal, hturn]
  rfl

theorem State.hostPeek_inside {s : State} {m : Mem} {a : Nat} (hst : s.st ≠ .running) (ha : a < s.params.size m) :
    s.hostPeek m a = s.answer ((s.peek m a).setWidth 32) := if_neg (by simp [hst, ha])

/-- A host memory read changes only the model's own record of reads (log 4). -/
theorem State.hostPeek_block (s : State) (m : Mem) (a : Nat) :
    s.hostPeek m a = { s with hostData := (s.hostPeek m a).hostData, draws := (s.hostPeek m a).draws } := by
  obtain ⟨x, hread⟩ | ⟨x, hread⟩ := s.hostPeek_cases m a <;> rw [hread] <;> rfl

/-- Settles O46: below the size the answer is the byte, zero-extended. -/
theorem hostMemoryReadAnswersTheByte : Obligations.HostMemoryReadAnswersTheByte := by
  intro s m a hlegal hturn
  refine ⟨_, step_of_memRead hlegal hturn, s.popTurn.hostPeek_block m a, fun hst ha => ?_⟩
  rw [State.hostPeek_inside (s := s.popTurn) hst ha]
  exact BitVec.toNat_setWidth_of_le (by decide)

end Sys2Proof.Machine

/-!
PROOFS. Encoding then decoding (30_encoding.md R82, R84, R85, R90): which form a command byte or an XD word selects, the bytes of each
encoding as numbers, and the decoder on them.
-/

namespace Sys2Proof

/-! ### The literal forms and the ends that a command byte or a word selects -/

theorem decodeLcw_eq_end (bs : List Byte) : decodeLcw (0x80#8 :: bs) = .command .lcwEnd bs := rfl

theorem decodeLcw_eq_lit {b0 : Byte} (hlo : 0x81 ≤ b0.toNat) (hhi : b0.toNat ≤ 0xBF) (bs : List Byte) :
    decodeLcw (b0 :: bs) = decodePayload (b0.toNat - 0x80) bs .lcwLit := by
  have h7 : ¬ b0.getLsbD 7 = false := by
    rw [getLsbD_eq_false_iff]
    omega
  have h6 : b0.getLsbD 6 = false := by
    rw [getLsbD_eq_false_iff]
    omega
  have hcount : (b0.extractLsb' 0 6).toNat = b0.toNat - 0x80 := by
    rw [toNat_lowBits]
    omega
  have hEnd : b0.extractLsb' 0 6 ≠ 0#6 := fun h => by
    rw [h] at hcount
    simp only [BitVec.toNat_ofNat] at hcount
    omega
  rw [decodeLcw, if_neg h7, if_pos h6, if_neg hEnd, hcount]

theorem decodeXd_eq_xor {b0 : Byte} (hlo : 1 ≤ b0.toNat) (hhi : b0.toNat ≤ 0x7F) (bs : List Byte) :
    decodeXd (b0 :: bs) = decodePayload b0.toNat bs .xdXor := by
  have hLong : b0 ≠ 0x80#8 := fun hb => by simp [hb] at hhi
  have hFill : b0 ≠ 0x00#8 := fun hb => by simp [hb] at hlo
  have h7 : b0.getLsbD 7 = false := by
    rw [getLsbD_eq_false_iff]
    omega
  have hcount : (b0.extractLsb' 0 7).toNat = b0.toNat := by
    rw [toNat_lowBits, Nat.mod_eq_of_lt (by omega)]
  refine (if_neg hLong).trans ((if_neg hFill).trans ((if_pos h7).trans ?_))
  rw [hcount]

theorem decodeXdLong_eq_end (bs : List Byte) : decodeXdLong 0#16 bs = .command .xdEnd bs := rfl

theorem decodeXdLong_eq_xorl {w : Half} (hlo : 0x8000 ≤ w.toNat) (hhi : w.toNat ≤ 0xBFFF) (bs : List Byte) :
    decodeXdLong w bs = decodePayload (w.toNat - 0x8000) bs .xdXorl := by
  have hEnd : w ≠ 0#16 := fun hw => by simp [hw] at hlo
  have h15 : ¬ w.getLsbD 15 = false := by
    rw [getLsbD_eq_false_iff]
    omega
  have h14 : w.getLsbD 14 = false := by
    rw [getLsbD_eq_false_iff]
    omega
  have hcount : (w.extractLsb' 0 14).toNat = w.toNat - 0x8000 := by
    rw [toNat_lowBits]
    omega
  rw [decodeXdLong, if_neg hEnd, if_neg h15, if_pos h14, hcount]

/-! ### The first bytes and words of the encodings as numbers -/

theorem toNat_lcwRelByte (c : BitVec 3) (d : BitVec 12) :
    (0#1 ++ c ++ d.extractLsb' 8 4).toNat = 16 * c.toNat + d.toNat / 256 := by
  rw [Machine.toNat_append_eq, Machine.toNat_append_eq, BitVec.extractLsb'_toNat, Nat.shiftRight_eq_div_pow]
  simp only [BitVec.toNat_ofNat]
  omega

/-- A byte or word of top bits `x` above a count: of a literal form, the payload's length. -/
theorem toNat_append_ofNat {m n k : Nat} (x : BitVec m) (h : k < 2 ^ n) :
    (x ++ BitVec.ofNat n k).toNat = x.toNat * 2 ^ n + k := by
  rw [Machine.toNat_append_eq, BitVec.toNat_ofNat, Nat.mod_eq_of_lt h]

theorem toNat_lcwLitByte {payload : List Byte} (h : payload.length ≤ 63) :
    (2#2 ++ BitVec.ofNat 6 payload.length).toNat = 0x80 + payload.length :=
  toNat_append_ofNat 2#2 (show payload.length < 2 ^ 6 by omega)

theorem toNat_xdXorByte {payload : List Byte} (h : payload.length ≤ 127) :
    (0#1 ++ BitVec.ofNat 7 payload.length).toNat = payload.length :=
  (toNat_append_ofNat 0#1 (show payload.length < 2 ^ 7 by omega)).trans (by simp)

theorem toNat_xdXorlWord {payload : List Byte} (h : payload.length ≤ 16383) :
    (2#2 ++ BitVec.ofNat 14 payload.length).toNat = 0x8000 + payload.length :=
  toNat_append_ofNat 2#2 (show payload.length < 2 ^ 14 by omega)

theorem toNat_lcwAbsByte (c : BitVec 6) : (3#2 ++ c).toNat = 0xC0 + c.toNat := Machine.toNat_append_eq 3#2 c

theorem toNat_xdSkipByte (n : BitVec 7) : (1#1 ++ n).toNat = 0x80 + n.toNat := Machine.toNat_append_eq 1#1 n

theorem toNat_xdSkiplWord (n : BitVec 15) : (0#1 ++ n).toNat = n.toNat :=
  (Machine.toNat_append_eq 0#1 n).trans (by simp)

theorem toNat_xdFilllWord (n : BitVec 14) : (3#2 ++ n).toNat = 0xC000 + n.toNat := Machine.toNat_append_eq 3#2 n

/-! ### The ranges of the operands (R91) -/

theorem wf_lcwLit_iff {payload : List Byte} : (Instr.lcwLit payload).wf = true ↔ 1 ≤ payload.length ∧ payload.length ≤ 63 := by
  simp [Instr.wf]

theorem wf_xdXor_iff {payload : List Byte} : (Instr.xdXor payload).wf = true ↔ 1 ≤ payload.length ∧ payload.length ≤ 127 := by
  simp [Instr.wf]

/-- A field that an encoding says is not 0 (R84, R85). -/
theorem one_le_toNat_of_bne {w : Nat} {n : BitVec w} (h : (n != 0) = true) : 1 ≤ n.toNat :=
  BitVec.toNat_pos_of_ne_zero (by simpa using h)

/-! ### The decoder on each encoding -/

theorem decodeLcw_bytes_lcwRel (c : BitVec 3) (d : BitVec 12) (rest : List Byte) :
    decodeLcw ((Instr.lcwRel c d).bytes ++ rest) = .command (.lcwRel c d) rest := by
  have hb0 := toNat_lcwRelByte c d
  have hb1 := toNat_lowBits d 8
  have hc := c.isLt
  have hd := d.isLt
  obtain ⟨c', d', hdec, hc', hd'⟩ :=
    decode_lcwRel (b0 := 0#1 ++ c ++ d.extractLsb' 8 4) (d.extractLsb' 0 8) rest (by omega)
  obtain rfl : c' = c := BitVec.eq_of_toNat_eq (by omega)
  obtain rfl : d' = d := BitVec.eq_of_toNat_eq (by omega)
  exact hdec

theorem decodeLcw_bytes_lcwLit {payload : List Byte} (hlo : 1 ≤ payload.length) (hhi : payload.length ≤ 63) (rest : List Byte) :
    decodeLcw ((Instr.lcwLit payload).bytes ++ rest) = .command (.lcwLit payload) rest := by
  have hb0 := toNat_lcwLitByte hhi
  refine (decodeLcw_eq_lit (by omega) (by omega) _).trans ?_
  rw [hb0, Nat.add_sub_cancel_left]
  exact decodePayload_append payload rest .lcwLit

theorem decodeLcw_bytes_lcwAbs {c : BitVec 6} (hc : c.toNat ≤ 0x3D) (p : Half) (rest : List Byte) :
    decodeLcw ((Instr.lcwAbs c p).bytes ++ rest) = .command (.lcwAbs c p) rest := by
  have hb0 := toNat_lcwAbsByte c
  have hcount : (3#2 ++ c).extractLsb' 0 6 = c := BitVec.extractLsb'_append_eq_right
  refine (decodeLcw_eq_abs (by omega) (by omega) _).trans ?_
  simp [halfBytes, decodeLcwAbs, half_of_bytes, hcount]

theorem decodeLcw_bytes_lcwFill (n : Half) (v : Byte) (rest : List Byte) :
    decodeLcw ((Instr.lcwFill n v).bytes ++ rest) = .command (.lcwFill n v) rest := by
  refine (decodeLcw_eq_fill _).trans ?_
  simp [halfBytes, decodeLcwFill, half_of_bytes]

theorem decodeLcw_bytes_lcwAbsl (n p : Half) (rest : List Byte) :
    decodeLcw ((Instr.lcwAbsl n p).bytes ++ rest) = .command (.lcwAbsl n p) rest := by
  refine (decodeLcw_eq_absl _).trans ?_
  simp [halfBytes, decodeLcwAbsl, half_of_bytes]

theorem decodeLcw_bytes {i : Instr} (hwf : i.wf = true) (hmode : i.mode = .lcw) (rest : List Byte) :
    decodeLcw (i.bytes ++ rest) = .command i rest := by
  cases i with
  | lcwRel c d => exact decodeLcw_bytes_lcwRel c d rest
  | lcwEnd => exact decodeLcw_eq_end rest
  | lcwLit payload =>
    obtain ⟨hlo, hhi⟩ := wf_lcwLit_iff.mp hwf
    exact decodeLcw_bytes_lcwLit hlo hhi rest
  | lcwAbs c p => exact decodeLcw_bytes_lcwAbs (by simpa [Instr.wf] using hwf) p rest
  | lcwFill n v => exact decodeLcw_bytes_lcwFill n v rest
  | lcwAbsl n p => exact decodeLcw_bytes_lcwAbsl n p rest
  | _ => cases hmode

theorem decodeXd_bytes_xdXor {payload : List Byte} (hlo : 1 ≤ payload.length) (hhi : payload.length ≤ 127) (rest : List Byte) :
    decodeXd ((Instr.xdXor payload).bytes ++ rest) = .command (.xdXor payload) rest := by
  have hb0 := toNat_xdXorByte hhi
  refine (decodeXd_eq_xor (by omega) (by omega) _).trans ?_
  rw [hb0]
  exact decodePayload_append payload rest .xdXor

theorem decodeXd_bytes_xdSkip {n : BitVec 7} (hn : 1 ≤ n.toNat) (rest : List Byte) :
    decodeXd ((Instr.xdSkip n).bytes ++ rest) = .command (.xdSkip n) rest := by
  have hb0 := toNat_xdSkipByte n
  have hcount : (1#1 ++ n).extractLsb' 0 7 = n := BitVec.extractLsb'_append_eq_right
  refine (decodeXd_eq_skip (by omega) rest).trans ?_
  rw [hcount]

/-- After 0x80 the two bytes of a word read as that word (R61, R85). -/
theorem decodeXd_word (w : Half) (bs : List Byte) : decodeXd (0x80#8 :: (halfBytes w ++ bs)) = decodeXdLong w bs :=
  (decodeXd_eq_long _ _ bs).trans (by rw [half_of_bytes])

theorem decodeXd_bytes_xdSkipl {n : BitVec 15} (hn : 1 ≤ n.toNat) (rest : List Byte) :
    decodeXd ((Instr.xdSkipl n).bytes ++ rest) = .command (.xdSkipl n) rest := by
  have hw := toNat_xdSkiplWord n
  have hcount : (0#1 ++ n).extractLsb' 0 15 = n := BitVec.extractLsb'_append_eq_right
  refine (decodeXd_word _ rest).trans ((decodeXdLong_eq_skipl (by omega) (by omega) rest).trans ?_)
  rw [hcount]

theorem decodeXd_bytes_xdXorl {payload : List Byte} (h : payload.length ≤ 16383) (rest : List Byte) :
    decodeXd ((Instr.xdXorl payload).bytes ++ rest) = .command (.xdXorl payload) rest := by
  have hw := toNat_xdXorlWord h
  rw [Instr.bytes, List.cons_append, List.append_assoc, decodeXd_word, decodeXdLong_eq_xorl (by omega) (by omega), hw,
    Nat.add_sub_cancel_left, decodePayload_append]

theorem decodeXd_bytes_xdFilll (n : BitVec 14) (v : Byte) (rest : List Byte) :
    decodeXd ((Instr.xdFilll n v).bytes ++ rest) = .command (.xdFilll n v) rest := by
  have hw := toNat_xdFilllWord n
  have hcount : (3#2 ++ n).extractLsb' 0 14 = n := BitVec.extractLsb'_append_eq_right
  rw [Instr.bytes, List.cons_append, List.append_assoc, decodeXd_word, decodeXdLong_eq_filll (by omega), List.singleton_append,
    decodeXdFilll, hcount]

theorem decodeXd_bytes {i : Instr} (hwf : i.wf = true) (hmode : i.mode = .xd) (rest : List Byte) :
    decodeXd (i.bytes ++ rest) = .command i rest := by
  cases i with
  | xdFill n v => exact decodeXd_eq_fill (n :: v :: rest)
  | xdXor payload =>
    obtain ⟨hlo, hhi⟩ := wf_xdXor_iff.mp hwf
    exact decodeXd_bytes_xdXor hlo hhi rest
  | xdSkip n => exact decodeXd_bytes_xdSkip (one_le_toNat_of_bne hwf) rest
  | xdEnd => exact (decodeXd_word 0#16 rest).trans (decodeXdLong_eq_end rest)
  | xdSkipl n => exact decodeXd_bytes_xdSkipl (one_le_toNat_of_bne hwf) rest
  | xdXorl payload => exact decodeXd_bytes_xdXorl (by simpa [Instr.wf] using hwf) rest
  | xdFilll n v => exact decodeXd_bytes_xdFilll n v rest
  | _ => cases hmode

/-! ### CTRL values -/

/-- The reserved bits of a CTRL value are not read: OP and REL alone say the operation (R23, R90). -/
theorem decodeCtrl_ctrlValue (x : Word) : decodeCtrl (ctrlValue (x.extractLsb' 0 3) (x.getLsbD 8)) = decodeCtrl x := by
  have hfields : ∀ (op : BitVec 3) (rel : Bool),
      (ctrlValue op rel).extractLsb' 0 3 = op ∧ (ctrlValue op rel).getLsbD 8 = rel := by decide
  obtain ⟨hop, hrel⟩ := hfields (x.extractLsb' 0 3) (x.getLsbD 8)
  rw [decodeCtrl, hop, hrel]
  rfl

/-- R90: each operation is read from its own CTRL value. -/
theorem decodeCtrl_ctrlWord {i : Instr} (hwf : i.wf = true) (hmode : i.mode = .ctrl) : decodeCtrl i.ctrlWord = i := by
  have hreserved : ∀ (op : BitVec 3) (rel : Bool), 5 ≤ op.toNat →
      decodeCtrl (ctrlValue op rel) = .ctrlReserved op rel := by decide
  cases i with
  | ctrlNop rel | ctrlStartLcw rel | ctrlStartXd rel | ctrlStartFrame rel | ctrlClearFrm rel => cases rel <;> rfl
  | ctrlReserved op rel => exact hreserved op rel (by simpa [Instr.wf] using hwf)
  | _ => cases hmode

/-- Settles O6, table by table. -/
theorem decodeReadsBackEveryEncoding : Obligations.DecodeReadsBackEveryEncoding := by
  intro i rest hwf
  cases hmode : i.mode with
  | lcw => simp [Instr.encodeWith, hmode, decode, decodeLcw_bytes hwf hmode]
  | xd => simp [Instr.encodeWith, hmode, decode, decodeXd_bytes hwf hmode]
  | ctrl => simp [Instr.encodeWith, hmode, decode, decodeCtrl_ctrlWord hwf hmode]

end Sys2Proof

/-!
PROOFS. Which command a command byte or an XD word selects, how many bytes it takes, and its row of the opcode table
(30_encoding.md R80 to R86, R88, R93).
-/

namespace Sys2Proof

/-! ### From a stream to the command it begins with -/

/-- The row that R81 gives a command byte of the LCW table. -/
def lcwRow (b : Byte) : Mnemonic :=
  if b.toNat ≤ 0x7F then .lcwRel
  else if b.toNat = 0x80 then .lcwEnd
  else if b.toNat ≤ 0xBF then .lcwLit
  else if b.toNat ≤ 0xFD then .lcwAbs
  else if b.toNat = 0xFE then .lcwFill
  else .lcwAbsl

/-- The command byte of an LCW encoding says its row, and a literal's count. -/
theorem lcwRow_of_bytes {b : Byte} {bs rest : List Byte} {i : Instr} (h : BeginsWith .lcw (b :: bs) i rest) :
    i.mnemonic = lcwRow b ∧ ∀ payload, i = .lcwLit payload → payload.length = b.toNat - 0x80 := by
  obtain ⟨hwf, hmode, hbytes⟩ := h
  cases i with
  | lcwRel c d =>
    obtain ⟨rfl, -⟩ := List.cons.inj hbytes
    have hb := toNat_lcwRelByte c d
    have hc := c.isLt
    have hd := d.isLt
    exact ⟨(if_pos (by omega)).symm, fun payload h => by cases h⟩
  | lcwEnd =>
    obtain ⟨rfl, -⟩ := List.cons.inj hbytes
    exact ⟨rfl, fun payload h => by cases h⟩
  | lcwLit payload =>
    obtain ⟨rfl, -⟩ := List.cons.inj hbytes
    obtain ⟨hlo, hhi⟩ := wf_lcwLit_iff.mp hwf
    have hb := toNat_lcwLitByte hhi
    refine ⟨?_, ?_⟩
    · rw [lcwRow, if_neg (by omega), if_neg (by omega), if_pos (by omega)]
      rfl
    · rintro _ ⟨⟩
      omega
  | lcwAbs c p =>
    obtain ⟨rfl, -⟩ := List.cons.inj hbytes
    have hb := toNat_lcwAbsByte c
    have hc : c.toNat ≤ 0x3D := by simpa [Instr.wf] using hwf
    refine ⟨?_, fun payload h => by cases h⟩
    rw [lcwRow, if_neg (by omega), if_neg (by omega), if_neg (by omega), if_pos (by omega)]
    rfl
  | lcwFill n v =>
    obtain ⟨rfl, -⟩ := List.cons.inj hbytes
    exact ⟨rfl, fun payload h => by cases h⟩
  | lcwAbsl n p =>
    obtain ⟨rfl, -⟩ := List.cons.inj hbytes
    exact ⟨rfl, fun payload h => by cases h⟩
  | _ => cases hmode

/-- Settles O12: what decodes is an encoding, and its command byte says the rest. -/
theorem lcwCommandByteSelectsTheCommand : Obligations.LcwCommandByteSelectsTheCommand :=
  fun _ _ _ _ h => lcwRow_of_bytes (beginsWith_of_decodeLcw h)

/-- What a command byte other than 0x80 says of the XD command it begins (R84). -/
theorem xdShort_of_bytes {b : Byte} {bs rest : List Byte} {i : Instr} (hb : b.toNat ≠ 0x80)
    (h : BeginsWith .xd (b :: bs) i rest) :
    (∃ n v, b.toNat = 0 ∧ i = .xdFill n v ∧ bs = n :: v :: rest)
    ∨ (∃ payload, 1 ≤ b.toNat ∧ b.toNat ≤ 0x7F ∧ i = .xdXor payload ∧ payload.length = b.toNat)
    ∨ (∃ n : BitVec 7, 0x81 ≤ b.toNat ∧ i = .xdSkip n ∧ n.toNat = b.toNat - 0x80) := by
  obtain ⟨hwf, hmode, hbytes⟩ := h
  cases i with
  | xdFill n v =>
    obtain ⟨rfl, rfl⟩ := List.cons.inj hbytes
    exact .inl ⟨n, v, rfl, rfl, rfl⟩
  | xdXor payload =>
    obtain ⟨rfl, -⟩ := List.cons.inj hbytes
    obtain ⟨hlo, hhi⟩ := wf_xdXor_iff.mp hwf
    have hb0 := toNat_xdXorByte hhi
    exact .inr (.inl ⟨payload, by omega, by omega, rfl, hb0.symm⟩)
  | xdSkip n =>
    obtain ⟨rfl, -⟩ := List.cons.inj hbytes
    have hn := one_le_toNat_of_bne hwf
    have hb0 := toNat_xdSkipByte n
    exact .inr (.inr ⟨n, by omega, rfl, by omega⟩)
  | xdEnd | xdSkipl | xdXorl | xdFilll =>
    obtain ⟨rfl, -⟩ := List.cons.inj hbytes
    exact absurd rfl hb
  | _ => cases hmode

/-- The word of an XD long form is the one its two bytes stand for (R61). -/
theorem toNat_of_wordBytes {lo hi : Byte} {bs bs' : List Byte} {w : Half}
    (h : 0x80#8 :: lo :: hi :: bs = 0x80#8 :: (halfBytes w ++ bs')) : lo.toNat + 256 * hi.toNat = w.toNat := by
  obtain ⟨rfl, rfl, -⟩ : lo = w.extractLsb' 0 8 ∧ hi = w.extractLsb' 8 8 ∧ bs = bs' := by simpa [halfBytes] using h
  rw [← toNat_half, half_of_bytes]

/-- What the word after 0x80 says of the XD command it begins (R85). -/
theorem xdLong_of_bytes {lo hi : Byte} {bs rest : List Byte} {i : Instr}
    (h : BeginsWith .xd (0x80#8 :: lo :: hi :: bs) i rest) {w : Nat} (hw : lo.toNat + 256 * hi.toNat = w) :
    (w = 0 ∧ i = .xdEnd)
    ∨ (∃ n : BitVec 15, 1 ≤ w ∧ w ≤ 0x7FFF ∧ i = .xdSkipl n ∧ n.toNat = w)
    ∨ (∃ payload, 0x8000 ≤ w ∧ w ≤ 0xBFFF ∧ i = .xdXorl payload ∧ payload.length = w - 0x8000)
    ∨ (∃ (n : BitVec 14) (v : Byte), 0xC000 ≤ w ∧ i = .xdFilll n v ∧ n.toNat = w - 0xC000) := by
  obtain ⟨hwf, hmode, hbytes⟩ := h
  subst hw
  cases i with
  | xdFill n v => cases hbytes
  | xdXor payload =>
    obtain ⟨-, hhi⟩ := wf_xdXor_iff.mp hwf
    have hb0 := toNat_xdXorByte hhi
    rw [← (List.cons.inj hbytes).1] at hb0
    simp only [BitVec.toNat_ofNat] at hb0
    omega
  | xdSkip n =>
    have hn := one_le_toNat_of_bne hwf
    have hb0 := toNat_xdSkipByte n
    rw [← (List.cons.inj hbytes).1] at hb0
    simp only [BitVec.toNat_ofNat] at hb0
    omega
  | xdEnd => exact .inl ⟨toNat_of_wordBytes (w := 0#16) hbytes, rfl⟩
  | xdSkipl n =>
    have hn := one_le_toNat_of_bne hwf
    have hword := (toNat_of_wordBytes hbytes).trans (toNat_xdSkiplWord n)
    exact .inr (.inl ⟨n, by omega, by omega, rfl, hword.symm⟩)
  | xdXorl payload =>
    have hlen : payload.length ≤ 16383 := by simpa [Instr.wf] using hwf
    rw [Instr.bytes, List.cons_append, List.append_assoc] at hbytes
    have hword := (toNat_of_wordBytes hbytes).trans (toNat_xdXorlWord hlen)
    exact .inr (.inr (.inl ⟨payload, by omega, by omega, rfl, by omega⟩))
  | xdFilll n v =>
    rw [Instr.bytes, List.cons_append, List.append_assoc] at hbytes
    have hword := (toNat_of_wordBytes hbytes).trans (toNat_xdFilllWord n)
    exact .inr (.inr (.inr ⟨n, v, by omega, rfl, by omega⟩))
  | _ => cases hmode

/-- Settles O13: the short forms by the command byte, the long forms by the word. -/
theorem xdCommandByteAndWordSelectTheCommand : Obligations.XdCommandByteAndWordSelectTheCommand := by
  refine ⟨fun b bs i rest hb h => ?_, fun lo hi bs i rest h => ?_⟩
  · obtain ⟨n, v, hrange, hi, hbs⟩ | ⟨payload, hlo, hhi, hi, hlen⟩ | ⟨n, hlo, hi, hn⟩ :=
      xdShort_of_bytes hb (beginsWith_of_decodeXd h)
    · exact ⟨fun _ => ⟨n, v, hi, hbs⟩, fun _ => by omega, fun _ => by omega⟩
    · exact ⟨fun _ => by omega, fun _ => ⟨payload, hi, hlen⟩, fun _ => by omega⟩
    · exact ⟨fun _ => by omega, fun _ => by omega, fun _ => ⟨n, hi, hn⟩⟩
  · intro w
    obtain ⟨hrange, hi⟩ | ⟨n, hlo, hhi, hi, hn⟩ | ⟨payload, hlo, hhi, hi, hlen⟩ | ⟨n, v, hlo, hi, hn⟩ :=
      xdLong_of_bytes (beginsWith_of_decodeXd h) (w := w) rfl
    · exact ⟨fun _ => hi, fun _ => by omega, fun _ => by omega, fun _ => by omega⟩
    · exact ⟨fun _ => by omega, fun _ => ⟨n, hi, hn⟩, fun _ => by omega, fun _ => by omega⟩
    · exact ⟨fun _ => by omega, fun _ => by omega, fun _ => ⟨payload, hi, hlen⟩, fun _ => by omega⟩
    · exact ⟨fun _ => by omega, fun _ => by omega, fun _ => by omega, fun _ => ⟨n, v, hi, hn⟩⟩

/-! ### Lengths -/

/-- What a stream begins with takes its encoded length (R83, R86). -/
theorem length_of_beginsWith {m : Mode} {bs rest : List Byte} {i : Instr} (h : BeginsWith m bs i rest) :
    bs.length = i.length + rest.length ∧ i.length ≤ Laws.EncodedLength.longest i.mode := by
  obtain ⟨hwf, -, rfl⟩ := h
  obtain ⟨hlen, hmax, -⟩ := Machine.encodedLength i hwf
  exact ⟨by rw [List.length_append, hlen], hmax⟩

/-- Settles O10, command by command. -/
theorem commandsTakeTheirLengths : Obligations.CommandsTakeTheirLengths := by
  refine ⟨fun bs i rest h => ?_, fun bs i rest h => ?_⟩
  · have hbegins := beginsWith_of_decodeLcw h
    obtain ⟨hlen, hmax⟩ := length_of_beginsWith hbegins
    obtain ⟨hwf, hmode, -⟩ := hbegins
    cases i with
    | lcwLit payload =>
      obtain ⟨hlo, -⟩ := wf_lcwLit_iff.mp hwf
      exact ⟨hlen, Nat.add_le_add_left hlo 1, hmax⟩
    | lcwRel | lcwEnd | lcwAbs | lcwFill | lcwAbsl => exact hlen
    | _ => cases hmode
  · have hbegins := beginsWith_of_decodeXd h
    obtain ⟨hlen, hmax⟩ := length_of_beginsWith hbegins
    obtain ⟨hwf, hmode, -⟩ := hbegins
    cases i with
    | xdXor payload =>
      obtain ⟨hlo, hhi⟩ := wf_xdXor_iff.mp hwf
      exact ⟨hlen, Nat.add_le_add_left hlo 1, Nat.add_le_add_left hhi 1⟩
    | xdXorl payload => exact ⟨hlen, hmax⟩
    | xdFill | xdSkip | xdEnd | xdSkipl | xdFilll => exact hlen
    | _ => cases hmode

/-! ### Long enough streams -/

theorem decodePayload_of_le {n : Nat} {bs : List Byte} (h : n ≤ bs.length) (mk : List Byte → Instr) :
    ∃ i rest, decodePayload n bs mk = .command i rest := by
  obtain ⟨payload, rest, -, -, hdec⟩ | ⟨hshort, -⟩ := decodePayload_cases n bs mk
  · exact ⟨_, _, hdec⟩
  · omega

theorem decodeLcw_of_long {bs : List Byte} (h : 64 ≤ bs.length) : ∃ i rest, decodeLcw bs = .command i rest := by
  obtain ⟨b0, b1, b2, b3, b4, bs, rfl⟩ : ∃ b0 b1 b2 b3 b4 bs', bs = b0 :: b1 :: b2 :: b3 :: b4 :: bs' := by
    match bs, h with
    | b0 :: b1 :: b2 :: b3 :: b4 :: bs', _ => exact ⟨b0, b1, b2, b3, b4, bs', rfl⟩
  have hcount := (b0.extractLsb' 0 6).isLt
  rw [decodeLcw]
  split_ifs with h7 h6 hEnd hFill hAbsl
  · exact ⟨_, _, rfl⟩
  · exact ⟨_, _, rfl⟩
  · exact decodePayload_of_le (by simp only [List.length_cons] at h ⊢; omega) _
  · exact ⟨_, _, rfl⟩
  · exact ⟨_, _, rfl⟩
  · exact ⟨_, _, rfl⟩

theorem decodeXdLong_of_long (w : Half) {bs : List Byte} (h : 16383 ≤ bs.length) :
    ∃ i rest, decodeXdLong w bs = .command i rest := by
  have hcount := (w.extractLsb' 0 14).isLt
  rw [decodeXdLong]
  split_ifs with hEnd h15 h14
  · exact ⟨_, _, rfl⟩
  · exact ⟨_, _, rfl⟩
  · exact decodePayload_of_le (by omega) _
  · cases bs with
    | nil => simp at h
    | cons v bs => exact ⟨_, _, rfl⟩

theorem decodeXd_of_long {bs : List Byte} (h : 16386 ≤ bs.length) : ∃ i rest, decodeXd bs = .command i rest := by
  obtain ⟨b0, b1, b2, bs, rfl⟩ : ∃ b0 b1 b2 bs', bs = b0 :: b1 :: b2 :: bs' := by
    match bs, h with
    | b0 :: b1 :: b2 :: bs', _ => exact ⟨b0, b1, b2, bs', rfl⟩
  have hcount := (b0.extractLsb' 0 7).isLt
  simp only [List.length_cons] at h
  rw [decodeXd]
  split_ifs with hLong hFill h7
  · exact decodeXdLong_of_long _ (by omega)
  · exact ⟨_, _, rfl⟩
  · exact decodePayload_of_le (by simp only [List.length_cons]; omega) _
  · exact ⟨_, _, rfl⟩

/-- Settles O9, table by table. -/
theorem everyLongEnoughStreamDecodes : Obligations.EveryLongEnoughStreamDecodes :=
  ⟨fun _ h => decodeLcw_of_long h, fun _ h => decodeXd_of_long h, fun x => ⟨decodeCtrl x, [], rfl⟩⟩

/-- Settles O11, by running the decoder on the six words. -/
theorem sampleEncodingsDecode : Obligations.SampleEncodingsDecode := by
  unfold Obligations.SampleEncodingsDecode
  decide

end Sys2Proof

/-!
PROOFS. The opcode table against the decoder (30_encoding.md R93). A row looks at no more of a stream than its first three bytes, and of
the second only whether it is 0, so what the table answers is a matter of finitely many streams.
-/

namespace Sys2Proof

/-! ### What a row looks at -/

theorem append_eq_append_iff {m n : Nat} {x x' : BitVec m} {y y' : BitVec n} : x ++ y = x' ++ y' ↔ x = x' ∧ y = y' := by
  constructor
  · intro h
    have hleft := congrArg (BitVec.extractLsb' n m) h
    have hright := congrArg (BitVec.extractLsb' 0 n) h
    rw [BitVec.extractLsb'_append_eq_left, BitVec.extractLsb'_append_eq_left] at hleft
    rw [BitVec.extractLsb'_append_eq_right, BitVec.extractLsb'_append_eq_right] at hright
    exact ⟨hleft, hright⟩
  · rintro ⟨rfl, rfl⟩
    rfl

theorem threeBytes (x : BitVec 24) : x.extractLsb' 16 8 ++ x.extractLsb' 8 8 ++ x.extractLsb' 0 8 = x := by
  apply BitVec.eq_of_toNat_eq
  simp only [Machine.toNat_append_eq, BitVec.extractLsb'_toNat, Nat.shiftRight_eq_div_pow]
  omega

/-- A key of three bytes is compared byte by byte. -/
theorem key_and_eq_iff (b0 b1 b2 : Byte) (mask pattern : BitVec 24) :
    b0 ++ b1 ++ b2 &&& mask = pattern ↔
      b0 &&& mask.extractLsb' 16 8 = pattern.extractLsb' 16 8 ∧ b1 &&& mask.extractLsb' 8 8 = pattern.extractLsb' 8 8
        ∧ b2 &&& mask.extractLsb' 0 8 = pattern.extractLsb' 0 8 := by
  rw [← and_assoc, ← append_eq_append_iff, ← append_eq_append_iff, ← BitVec.and_append, ← BitVec.and_append, threeBytes,
    threeBytes]

theorem streamKey_three (bs : List Byte) : streamKey 3 bs = streamByte bs 0 ++ streamByte bs 1 ++ streamByte bs 2 := rfl

/-- The row is one of the XD long forms': its first byte is 0x80 and its second byte is 0 or anything. -/
def OpcodeRow.IsLong (r : OpcodeRow) : Prop :=
  r.keyBytes = 3 ∧ r.mask.extractLsb' 16 8 = 0xFF#8 ∧ r.pattern.extractLsb' 16 8 = 0x80#8
    ∧ (r.mask.extractLsb' 8 8 = 0x00#8 ∨ r.mask.extractLsb' 8 8 = 0xFF#8) ∧ r.pattern.extractLsb' 8 8 = 0x00#8

theorem lcwRow_keyBytes : ∀ r ∈ opcodeTable, r.mode = .lcw → r.keyBytes = 1 := by decide

/-- An XD row has a key of one byte or is a long form's. -/
theorem xdRow_cases : ∀ r ∈ opcodeTable, r.mode ≠ .xd ∨ r.keyBytes = 1 ∨ r.IsLong := by
  unfold OpcodeRow.IsLong
  decide

/-- A row of the long forms looks at whether the first byte is 0x80, whether the second is 0, and at the third. -/
theorem OpcodeRow.IsLong.key_fits_congr {r : OpcodeRow} (hr : r.IsLong) {bs bs' : List Byte}
    (h0 : streamByte bs 0 = streamByte bs' 0)
    (hlong : streamByte bs 0 = 0x80#8 → (streamByte bs 1 = 0x00#8 ↔ streamByte bs' 1 = 0x00#8) ∧ streamByte bs 2 = streamByte bs' 2) :
    streamKey r.keyBytes bs &&& r.mask = r.pattern ↔ streamKey r.keyBytes bs' &&& r.mask = r.pattern := by
  obtain ⟨hkey, hmask, hpattern, hsecond, hzero⟩ := hr
  have hall : ∀ b : Byte, b &&& 0xFF#8 = b := by decide
  simp only [hkey, streamKey_three, key_and_eq_iff, hmask, hpattern, hzero, hall, ← h0]
  refine and_congr_right fun hb0 => ?_
  obtain ⟨h1, h2⟩ := hlong hb0
  rw [h2]
  refine and_congr_left fun _ => ?_
  obtain hnone | hfull := hsecond
  · simp [hnone]
  · simpa [hfull, hall] using h1

/-! ### The rows that match -/

/-- What the table reads depends on nothing but which rows fit. -/
theorem tableReads_congr {c c' : Code} (h : ∀ r ∈ opcodeTable, r.fits c = r.fits c') : tableReads c = tableReads c' := by
  have hselects : ∀ r ∈ opcodeTable, r.selects c = r.selects c' := fun r hr => by
    rw [OpcodeRow.selects, OpcodeRow.selects, h r hr, Bool.eq_iff_iff]
    simp +contextual only [Bool.and_eq_true, List.all_eq_true, h]
  rw [tableReads, tableReads, List.filter_congr hselects]

theorem tableReads_xd_congr {bs bs' : List Byte} (h0 : streamByte bs 0 = streamByte bs' 0)
    (hlong : streamByte bs 0 = 0x80#8 → (streamByte bs 1 = 0x00#8 ↔ streamByte bs' 1 = 0x00#8) ∧ streamByte bs 2 = streamByte bs' 2) :
    tableReads (.xd bs) = tableReads (.xd bs') := by
  refine tableReads_congr fun r hr => ?_
  rw [Bool.eq_iff_iff]
  simp only [OpcodeRow.fits, Bool.and_eq_true, beq_iff_eq]
  refine and_congr_right fun hmode => ?_
  obtain hother | hone | hisLong := xdRow_cases r hr
  · exact absurd hmode hother
  · simp [hone, streamKey, h0]
  · exact hisLong.key_fits_congr h0 hlong

theorem tableReads_lcw (b : Byte) (bs : List Byte) : tableReads (.lcw (b :: bs)) = [lcwRow b] := by
  have hrows : ∀ b : Byte, tableReads (.lcw [b]) = [lcwRow b] := by decide
  rw [← hrows b]
  refine tableReads_congr fun r hr => ?_
  rw [Bool.eq_iff_iff]
  simp only [OpcodeRow.fits, Bool.and_eq_true, beq_iff_eq]
  refine and_congr_right fun hmode => ?_
  rw [lcwRow_keyBytes r hr hmode]
  rfl

/-- The row of an XD command byte other than 0x80 (R84). -/
def xdShortRow (b : Byte) : Mnemonic :=
  if b.toNat = 0 then .xdFill else if b.toNat ≤ 0x7F then .xdXor else .xdSkip

/-- The row of a word after 0x80 (R85). -/
def xdLongRow (w : Nat) : Mnemonic :=
  if w = 0 then .xdEnd else if w ≤ 0x7FFF then .xdSkipl else if w ≤ 0xBFFF then .xdXorl else .xdFilll

theorem tableReads_xdShort {b : Byte} (hb : b.toNat ≠ 0x80) (bs : List Byte) :
    tableReads (.xd (b :: bs)) = [xdShortRow b] := by
  have hrows : ∀ b : Byte, b.toNat ≠ 0x80 → tableReads (.xd [b]) = [xdShortRow b] := by decide
  rw [← hrows b hb]
  refine tableReads_xd_congr rfl fun h => ?_
  obtain rfl : b = 0x80#8 := h
  exact absurd rfl hb

/-- Of the word's low byte only whether it is 0 matters. -/
theorem xdLongRow_congr {lo : Nat} (hi : Nat) (hpos : 0 < lo) (hlt : lo < 256) :
    xdLongRow (lo + 256 * hi) = xdLongRow (1 + 256 * hi) := by
  have hSkipl : lo + 256 * hi ≤ 0x7FFF ↔ 1 + 256 * hi ≤ 0x7FFF := by omega
  have hXorl : lo + 256 * hi ≤ 0xBFFF ↔ 1 + 256 * hi ≤ 0xBFFF := by omega
  rw [xdLongRow, if_neg (show lo + 256 * hi ≠ 0 by omega), xdLongRow, if_neg (show 1 + 256 * hi ≠ 0 by omega)]
  simp only [hSkipl, hXorl]

theorem tableReads_xdLong (lo hi : Byte) (bs : List Byte) :
    tableReads (.xd (0x80#8 :: lo :: hi :: bs)) = [xdLongRow (lo.toNat + 256 * hi.toNat)] := by
  have hzero : ∀ hi : Byte, tableReads (.xd [0x80#8, 0#8, hi]) = [xdLongRow (0 + 256 * hi.toNat)] := by decide
  have hone : ∀ hi : Byte, tableReads (.xd [0x80#8, 1#8, hi]) = [xdLongRow (1 + 256 * hi.toNat)] := by decide
  by_cases hlo : lo = 0#8
  · subst hlo
    exact (tableReads_xd_congr rfl fun _ => ⟨Iff.rfl, rfl⟩).trans (hzero hi)
  · rw [xdLongRow_congr hi.toNat (BitVec.toNat_pos_of_ne_zero hlo) lo.isLt, ← hone hi]
    exact tableReads_xd_congr rfl fun _ => ⟨iff_of_false hlo (show 1#8 ≠ 0#8 by decide), rfl⟩

theorem tableReads_ctrl (x : Word) : tableReads (.ctrl x) = [(decodeCtrl x).mnemonic] := by
  have hrows : ∀ (op : BitVec 3) (rel : Bool),
      tableReads (.ctrl (ctrlValue op rel)) = [(decodeCtrl (ctrlValue op rel)).mnemonic] := by decide
  have hop : ∀ (op : BitVec 3) (rel : Bool), (ctrlValue op rel).extractLsb' 0 3 = op := by decide
  have hfits : ∀ r ∈ opcodeTable, r.fits (.ctrl x) = r.fits (.ctrl (ctrlValue (x.extractLsb' 0 3) (x.getLsbD 8))) :=
    fun r _ => by rw [OpcodeRow.fits, OpcodeRow.fits, hop]
  rw [tableReads_congr hfits, hrows, decodeCtrl_ctrlValue]

/-! ### The decoded instruction's row -/

theorem xdShortRow_of_bytes {b : Byte} {bs rest : List Byte} {i : Instr} (hb : b.toNat ≠ 0x80)
    (h : BeginsWith .xd (b :: bs) i rest) : i.mnemonic = xdShortRow b := by
  obtain ⟨n, v, hrange, rfl, -⟩ | ⟨payload, hlo, hhi, rfl, -⟩ | ⟨n, hlo, rfl, -⟩ := xdShort_of_bytes hb h
  · rw [xdShortRow, if_pos hrange]
    rfl
  · rw [xdShortRow, if_neg (by omega), if_pos hhi]
    rfl
  · rw [xdShortRow, if_neg (by omega), if_neg (by omega)]
    rfl

theorem xdLongRow_of_bytes {lo hi : Byte} {bs rest : List Byte} {i : Instr}
    (h : BeginsWith .xd (0x80#8 :: lo :: hi :: bs) i rest) : i.mnemonic = xdLongRow (lo.toNat + 256 * hi.toNat) := by
  obtain ⟨hzero, rfl⟩ | ⟨n, hlo, hhi, rfl, -⟩ | ⟨payload, hlo, hhi, rfl, -⟩ | ⟨n, v, hlo, rfl, -⟩ := xdLong_of_bytes h rfl
  · rw [xdLongRow, if_pos hzero]
    rfl
  · rw [xdLongRow, if_neg (by omega), if_pos hhi]
    rfl
  · rw [xdLongRow, if_neg (by omega), if_neg (by omega), if_pos hhi]
    rfl
  · rw [xdLongRow, if_neg (by omega), if_neg (by omega), if_neg (by omega)]
    rfl

theorem tableReads_of_decodeLcw {bs rest : List Byte} {i : Instr} (h : decodeLcw bs = .command i rest) :
    tableReads (.lcw bs) = [i.mnemonic] := by
  cases bs with
  | nil => cases h
  | cons b bs => rw [tableReads_lcw, (lcwRow_of_bytes (beginsWith_of_decodeLcw h)).1]

theorem tableReads_of_decodeXd {bs rest : List Byte} {i : Instr} (h : decodeXd bs = .command i rest) :
    tableReads (.xd bs) = [i.mnemonic] := by
  match bs, h with
  | [], h => cases h
  | b :: bs, h =>
    by_cases hb : b.toNat = 0x80
    · obtain rfl : b = 0x80#8 := BitVec.eq_of_toNat_eq hb
      match bs, h with
      | [], h | [_], h => cases h
      | lo :: hi :: bs, h => rw [tableReads_xdLong, xdLongRow_of_bytes (beginsWith_of_decodeXd h)]
    · rw [tableReads_xdShort hb, xdShortRow_of_bytes hb (beginsWith_of_decodeXd h)]

/-- Settles O8, table by table. -/
theorem decodedInstructionHasTheOneMatchingRow : Obligations.DecodedInstructionHasTheOneMatchingRow := by
  intro c i rest h
  cases c with
  | lcw bs => exact tableReads_of_decodeLcw h
  | xd bs => exact tableReads_of_decodeXd h
  | ctrl x =>
    obtain ⟨rfl, -⟩ := Decoded.command.inj h
    exact tableReads_ctrl x

end Sys2Proof

/-!
PROOFS. The step of a running codec is the instruction whose bytes stand at SP, and a host write of CTRL is its operation (30_encoding.md
R80, R90; 40_lcw.md R100; 41_xordelta.md R140; 42_control.md R180, R191).
-/

namespace Sys2Proof.Machine

/-! ### The fetched command and the CTRL write -/

/-- While a codec runs the engine's turn is its fetch, but for a full LCW buffer (R100, R140). -/
theorem State.engineAction_eq_fetch {s : State} (hrun : s.st = .running) (hjob : s.job ≠ jobClear)
    (hroom : s.phase = .lcw → s.dp ≠ s.cap) : s.engineAction = s.fetch := by
  obtain ⟨hst, -⟩ | ⟨-, hclear, -⟩ | ⟨-, -, hphase, hfull, -⟩ | ⟨-, -, -, hact⟩ := s.engineAction_cases
  · exact absurd hrun hst
  · exact absurd hclear hjob
  · exact absurd hfull (hroom hphase)
  · exact hact

theorem step_eq_exec_of_decode {s : State} {i : Instr} {rest : List Byte} (hturn : s.codecTurn)
    (hroom : s.phase = .lcw → s.dp ≠ s.cap) (h : decode s.fetchCode = .command i rest) : step s = exec i s.popTurn := by
  obtain ⟨hlegal, hengine, hrun, hjob⟩ := hturn
  have hdec : decode s.popTurn.fetchCode = .command i rest := h
  have hfetch : s.popTurn.fetch = .run i := by rw [State.fetch, hdec]
  rw [step_of_engineTurn hlegal hengine, State.engineAction_eq_fetch (s := s.popTurn) hrun hjob hroom, hfetch]
  rfl

/-- Settles O15: the turn is the engine's, and it fetches. -/
theorem stepRunsTheFetchedCommand : Obligations.StepRunsTheFetchedCommand :=
  fun _ _ _ => step_eq_exec_of_decode

/-- Settles O16: the turn is the host's, and offset 0 is CTRL's. -/
theorem stepRunsTheControlWrite : Obligations.StepRunsTheControlWrite := by
  intro s x ts hlegal hturns
  have hturn : s.nextTurn = .host (.regWrite 0x00#6 x) := by rw [State.nextTurn, hturns]; rfl
  have hpop : s.popTurn = { s with turns := ts } := by rw [State.popTurn, hturns]; rfl
  rw [step_of_legal hlegal, hturn, hpop]
  rfl

/-! ### A command that stands at SP -/

theorem State.peekRange_add (s : State) (m : Mem) (a n k : Nat) :
    s.peekRange m a (n + k) = s.peekRange m a n ++ s.peekRange m (a + n) k := by
  simp [State.peekRange, List.range_add, Nat.add_assoc]

/-- A memory holds bytes where its range reads as them. -/
theorem State.peekRange_of_holds {s : State} {m : Mem} {a : Nat} {bs : List Byte} (h : s.holds m a bs) :
    s.peekRange m a bs.length = bs := by
  refine List.ext_getElem (by simp [State.peekRange]) fun k hk hk' => ?_
  simp [State.peekRange, h k hk', hk']

/-- The fetch reads a command that stands at SP, inside the input, whole (R80). -/
theorem State.fetchBytes_of_holds {s : State} {bs : List Byte} (hin : s.sp.toNat + bs.length ≤ s.inLen)
    (hsize : s.inLen ≤ s.params.size s.phase.input) (hlongest : bs.length ≤ s.phase.longest)
    (hbytes : s.holds s.phase.input s.sp.toNat bs) : ∃ rest, s.fetchBytes = bs ++ rest := by
  have hend : s.fetchEnd = s.inLen := Nat.min_eq_left hsize
  obtain ⟨k, hk⟩ : ∃ k, min (s.fetchEnd - s.sp.toNat) s.phase.longest = bs.length + k :=
    Nat.exists_eq_add_of_le (by omega)
  exact ⟨_, by rw [State.fetchBytes, hk, State.peekRange_add, State.peekRange_of_holds hbytes]⟩

theorem Phase.longest_eq (p : Phase) : p.longest = Laws.EncodedLength.longest p.mode := by cases p <;> rfl

/-- The bytes of a well-formed command of the running phase decode to it (R82, R84, R85). -/
theorem State.decode_fetchCode {s : State} {i : Instr} {rest : List Byte} (hwf : i.wf = true) (hmode : i.mode = s.phase.mode)
    (h : s.fetchBytes = i.bytes ++ rest) : decode s.fetchCode = .command i rest := by
  cases hphase : s.phase with
  | lcw =>
    rw [hphase] at hmode
    rw [State.fetchCode, hphase, h]
    exact decodeLcw_bytes hwf hmode rest
  | xd =>
    rw [hphase] at hmode
    rw [State.fetchCode, hphase, h]
    exact decodeXd_bytes hwf hmode rest

theorem step_eq_exec_of_holds {s : State} {i : Instr} (hturn : s.codecTurn) (hroom : s.phase = .lcw → s.dp ≠ s.cap)
    (hwf : i.wf = true) (hmode : i.mode = s.phase.mode) (hin : s.sp.toNat + i.length ≤ s.inLen)
    (hsize : s.inLen ≤ s.params.size s.phase.input) (hbytes : s.holds s.phase.input s.sp.toNat i.bytes) :
    step s = exec i s.popTurn := by
  obtain ⟨hlen, hmax, -⟩ := encodedLength i hwf
  rw [← hlen] at hin hmax
  rw [hmode, ← Phase.longest_eq] at hmax
  obtain ⟨rest, hfetch⟩ := State.fetchBytes_of_holds hin hsize hmax hbytes
  exact step_eq_exec_of_decode hturn hroom (State.decode_fetchCode hwf hmode hfetch)

/-- Settles O17: the bytes at SP decode to the command, and the step runs what decodes. -/
theorem commandAtTheInputCursorRuns : Obligations.CommandAtTheInputCursorRuns := by
  intro s i hturn hroom hwf hmode hin hsize hbytes
  refine step_eq_exec_of_holds hturn hroom hwf (hmode.trans ?_) hin hsize hbytes
  cases s.phase <;> rfl

/-! ### The causes of the commands -/

theorem State.lcwEmit_cause {s t : State} {len : Nat} {bs : List Byte} (hs : s.cause = .none) (h : s.lcwEmit len bs = .next t) :
    t.cause = .none ∨ t.cause = .inputOverrun ∨ t.cause = .capacity := by
  obtain ⟨-, rfl⟩ | ⟨-, ⟨x, hx, -⟩, -⟩ | ⟨-, -, -, rfl⟩ | ⟨-, -, -, -, rfl⟩ := State.lcwCommand_cases h
  · exact .inr (.inl rfl)
  · cases hx
  · exact .inr (.inr rfl)
  · exact .inl hs

theorem State.lcwCopy_cause {s t : State} {len count : Nat} {source : Int} (hs : s.cause = .none)
    (h : s.lcwCopy len count source = .next t) :
    t.cause = .none ∨ t.cause = .inputOverrun ∨ t.cause = .backrefRange ∨ t.cause = .capacity := by
  obtain ⟨-, rfl⟩ | ⟨-, -, rfl⟩ | ⟨-, -, -, rfl⟩ | ⟨-, -, -, -, rfl⟩ := State.lcwCommand_cases h
  · exact .inr (.inl rfl)
  · exact .inr (.inr (.inl rfl))
  · exact .inr (.inr (.inr rfl))
  · exact .inl hs

theorem State.xdUpdate_cause {s t : State} {len : Nat} {us : List Byte} (hs : s.cause = .none)
    (h : s.xdUpdate len us = .next t) : t.cause = .none ∨ t.cause = .inputOverrun ∨ t.cause = .capacity := by
  obtain ⟨-, rfl⟩ | ⟨-, -, rfl⟩ | ⟨-, -, -, rfl⟩ := State.xdUpdate_cases h
  · exact .inr (.inl rfl)
  · exact .inr (.inr rfl)
  · exact .inl hs

theorem State.xdSkip_cause {s t : State} {len count : Nat} (hs : s.cause = .none) (h : s.xdSkip len count = .next t) :
    t.cause = .none ∨ t.cause = .capacity := by
  obtain ⟨-, rfl⟩ | ⟨-, rfl⟩ := State.xdSkip_cases h
  · exact .inr rfl
  · exact .inl hs

/-- Settles O37, template by template. -/
theorem commandsRaiseOnlyTheirCauses : Obligations.CommandsRaiseOnlyTheirCauses := by
  intro i s t hmode hs h
  cases i with
  | lcwRel | lcwAbs | lcwAbsl =>
    obtain hc | hc | hc | hc := State.lcwCopy_cause hs h
    · exact .inl hc
    · exact .inr (.inl ⟨hc, trivial⟩)
    · exact .inr (.inr (.inl ⟨hc, trivial⟩))
    · exact .inr (.inr (.inr ⟨hc, trivial⟩))
  | lcwLit | lcwFill =>
    obtain hc | hc | hc := State.lcwEmit_cause hs h
    · exact .inl hc
    · exact .inr (.inl ⟨hc, trivial⟩)
    · exact .inr (.inr (.inr ⟨hc, trivial⟩))
  | lcwEnd =>
    rw [exec_lcwEnd] at h
    injection h with h
    exact .inl (by rw [← h, State.lcwTerminate_cause, State.advance_cause, hs])
  | xdFill | xdXor | xdXorl | xdFilll =>
    obtain hc | hc | hc := State.xdUpdate_cause hs h
    · exact .inl hc
    · exact .inr (.inl ⟨hc, trivial⟩)
    · exact .inr (.inr (.inr ⟨hc, trivial⟩))
  | xdSkip | xdSkipl =>
    obtain hc | hc := State.xdSkip_cause hs h
    · exact .inl hc
    · exact .inr (.inr (.inr ⟨hc, trivial⟩))
  | xdEnd =>
    rw [exec_xdEnd] at h
    injection h with h
    exact .inl (h ▸ hs)
  | _ => exact absurd rfl hmode

end Sys2Proof.Machine

/-!
PROOFS. The pseudo-instructions of the assembler (30_encoding.md R92): each expansion is well-formed and covers its operands.
-/

namespace Sys2Proof.Machine

/-! ### Pieces -/

/-- Cut in pieces, no byte is lost and each piece has from 1 to `k` bytes. -/
theorem pieces_spec {k : Nat} (hk : 1 ≤ k) (fuel : Nat) (bs : List Byte) (h : bs.length ≤ fuel) :
    (pieces k fuel bs).flatten = bs ∧ ∀ p ∈ pieces k fuel bs, 1 ≤ p.length ∧ p.length ≤ k := by
  induction fuel generalizing bs with
  | zero =>
    obtain rfl : bs = [] := List.length_eq_zero_iff.mp (Nat.le_zero.mp h)
    simp [pieces]
  | succ fuel ih =>
    cases bs with
    | nil => simp [pieces]
    | cons b bs =>
      obtain ⟨hflatten, hpieces⟩ := ih ((b :: bs).drop k) (by simp only [List.length_drop, List.length_cons] at h ⊢; omega)
      have hcut : pieces k (fuel + 1) (b :: bs) = (b :: bs).take k :: pieces k fuel ((b :: bs).drop k) := rfl
      rw [hcut]
      refine ⟨by rw [List.flatten_cons, hflatten, List.take_append_drop], ?_⟩
      rw [List.forall_mem_cons]
      exact ⟨by simp only [List.length_take, List.length_cons]; omega, hpieces⟩

/-- LCW.LITS (R92). -/
theorem expandLits_spec (bs : List Byte) :
    ∃ ps : List (List Byte), expandLits bs = ps.map Instr.lcwLit ∧ ps.flatten = bs ∧ ∀ i ∈ expandLits bs, i.wf = true := by
  obtain ⟨hflatten, hpieces⟩ := pieces_spec (show 1 ≤ 63 by decide) bs.length bs (Nat.le_refl _)
  refine ⟨_, rfl, hflatten, fun i hi => ?_⟩
  obtain ⟨p, hp, rfl⟩ := List.mem_map.mp hi
  exact wf_lcwLit_iff.mpr (hpieces p hp)

/-! ### Counts -/

/-- Commands of the given kind whose output counts add up to `n`. -/
def Covers (kind : Instr → Prop) (n : Nat) (is : List Instr) : Prop := (is.map outputCount).sum = n ∧ ∀ i ∈ is, kind i

theorem covers_nil (kind : Instr → Prop) : Covers kind 0 [] := ⟨rfl, by simp⟩

theorem Covers.cons {kind : Instr → Prop} {i : Instr} {n k : Nat} {is : List Instr} (hkind : kind i) (hcount : outputCount i = k)
    (hk : k ≤ n) (h : Covers kind (n - k) is) : Covers kind n (i :: is) := by
  obtain ⟨hsum, hkinds⟩ := h
  refine ⟨?_, List.forall_mem_cons.mpr ⟨hkind, hkinds⟩⟩
  rw [List.map_cons, List.sum_cons, hcount, hsum]
  omega

theorem covers_singleton {kind : Instr → Prop} {i : Instr} {n : Nat} (hkind : kind i) (hcount : outputCount i = n) :
    Covers kind n [i] :=
  .cons hkind hcount (Nat.le_refl n) (by rw [Nat.sub_self]; exact covers_nil kind)

theorem toNat_ofNat_of_lt {w n : Nat} (h : n < 2 ^ w) : (BitVec.ofNat w n).toNat = n := by
  rw [BitVec.toNat_ofNat, Nat.mod_eq_of_lt h]

/-- A count field that is not 0 (R84, R85). -/
theorem ofNat_bne_zero {w n : Nat} (hpos : 1 ≤ n) (h : n < 2 ^ w) : (BitVec.ofNat w n != 0) = true := by
  rw [bne_iff_ne]
  intro (hzero : BitVec.ofNat w n = 0#w)
  have hn := toNat_ofNat_of_lt h
  rw [hzero, BitVec.toNat_zero] at hn
  omega

/-- LCW.RUN (R92). -/
theorem expandRun_covers (v : Byte) (fuel n : Nat) (h : n ≤ fuel) :
    Covers (fun i => i.wf = true ∧ ∃ c, i = .lcwFill c v) n (expandRun v fuel n) := by
  induction fuel generalizing n with
  | zero =>
    obtain rfl := Nat.le_zero.mp h
    exact covers_singleton ⟨rfl, _, rfl⟩ rfl
  | succ fuel ih =>
    rw [expandRun]
    split_ifs with hfits
    · exact covers_singleton ⟨rfl, _, rfl⟩ (toNat_ofNat_of_lt (by omega))
    · exact .cons ⟨rfl, _, rfl⟩ rfl (k := 65535) (by omega) (ih _ (by omega))

/-- A well-formed XD.SKIP or XD.SKIPL. -/
def IsSkip (i : Instr) : Prop := i.wf = true ∧ ((∃ c, i = .xdSkip c) ∨ ∃ c, i = .xdSkipl c)

/-- XD.SKIPN (R92). -/
theorem expandSkip_covers (fuel n : Nat) (h : n ≤ fuel) : Covers IsSkip n (expandSkip fuel n) := by
  induction fuel generalizing n with
  | zero =>
    obtain rfl := Nat.le_zero.mp h
    exact covers_nil _
  | succ fuel ih =>
    rw [expandSkip]
    split_ifs with hzero hshort
    · subst hzero
      exact covers_nil _
    · exact covers_singleton ⟨ofNat_bne_zero (by omega) (by omega), .inl ⟨_, rfl⟩⟩ (toNat_ofNat_of_lt (by omega))
    · exact .cons ⟨ofNat_bne_zero (by omega) (by omega), .inr ⟨_, rfl⟩⟩ (toNat_ofNat_of_lt (by omega)) (by omega)
        (ih _ (by omega))

/-- XD.FILLN (R92). -/
theorem expandFill_covers (v : Byte) (fuel n : Nat) (h : n ≤ fuel) :
    Covers (fun i => i.wf = true ∧ ((∃ c, i = .xdFill c v) ∨ ∃ c, i = .xdFilll c v)) n (expandFill v fuel n) := by
  induction fuel generalizing n with
  | zero =>
    obtain rfl := Nat.le_zero.mp h
    exact covers_nil _
  | succ fuel ih =>
    rw [expandFill]
    split_ifs with hzero hshort
    · subst hzero
      exact covers_nil _
    · exact covers_singleton ⟨rfl, .inl ⟨_, rfl⟩⟩ (toNat_ofNat_of_lt (by omega))
    · exact .cons ⟨rfl, .inr ⟨_, rfl⟩⟩ (toNat_ofNat_of_lt (by omega)) (by omega) (ih _ (by omega))

/-! ### XD.XORN and LCW.COPY -/

/-- The update bytes of an XOR command. -/
def xorPayload : Instr → List Byte
  | .xdXor p => p
  | .xdXorl p => p
  | _ => []

/-- XD.XORN (R92). -/
theorem expandXor_spec (fuel : Nat) (bs : List Byte) (h : bs.length ≤ fuel) :
    (expandXor fuel bs).flatMap xorPayload = bs
      ∧ ∀ i ∈ expandXor fuel bs, i.wf = true ∧ ((∃ p, i = .xdXor p) ∨ ∃ p, i = .xdXorl p) := by
  induction fuel generalizing bs with
  | zero =>
    obtain rfl : bs = [] := List.length_eq_zero_iff.mp (Nat.le_zero.mp h)
    simp [expandXor]
  | succ fuel ih =>
    rw [expandXor]
    split_ifs with hzero hshort
    · obtain rfl : bs = [] := List.length_eq_zero_iff.mp hzero
      simp
    · refine ⟨by simp [xorPayload], ?_⟩
      rw [List.forall_mem_singleton]
      exact ⟨wf_xdXor_iff.mpr (by omega), .inl ⟨_, rfl⟩⟩
    · obtain ⟨hpayloads, hkinds⟩ := ih (bs.drop 16383) (by rw [List.length_drop]; omega)
      refine ⟨by rw [List.flatMap_cons, hpayloads]; exact List.take_append_drop 16383 bs, ?_⟩
      rw [List.forall_mem_cons]
      exact ⟨⟨by simp [Instr.wf], .inr ⟨_, rfl⟩⟩, hkinds⟩

/-- Where the operands of LCW.COPY are legal it is the first of R92's three alternatives that fits. -/
theorem expandCopy_of_legal {rel : Bool} {pos n d : Nat} (h : 1 ≤ d ∧ d ≤ pos) :
    expandCopy rel pos n d =
      if 3 ≤ n ∧ n ≤ 10 ∧ d ≤ 4095 then some [.lcwRel (BitVec.ofNat 3 (n - 3)) (BitVec.ofNat 12 d)]
      else if 65535 < (if rel then d else pos - d) then none
      else if 3 ≤ n ∧ n ≤ 64 then
        some [.lcwAbs (BitVec.ofNat 6 (n - 3)) (BitVec.ofNat 16 (if rel then d else pos - d))]
      else if n ≤ 65535 then some [.lcwAbsl (BitVec.ofNat 16 n) (BitVec.ofNat 16 (if rel then d else pos - d))]
      else none := by
  rw [expandCopy]
  exact if_neg (by omega)

theorem expandCopy_of_illegal {rel : Bool} {pos n d : Nat} (h : ¬ (1 ≤ d ∧ d ≤ pos)) : expandCopy rel pos n d = none := by
  rw [expandCopy]
  exact if_pos (by omega)

/-- Settles O60, pseudo-instruction by pseudo-instruction. -/
theorem pseudoInstructionsCoverTheirOperands : Obligations.PseudoInstructionsCoverTheirOperands := by
  refine ⟨expandLits_spec, fun v n => expandRun_covers v n n (Nat.le_refl n), fun n => expandSkip_covers n n (Nat.le_refl n),
    fun v n => expandFill_covers v n n (Nat.le_refl n), fun bs => expandXor_spec bs.length bs (Nat.le_refl _),
    fun rel pos n d => ?_⟩
  intro q short
  refine ⟨expandCopy_of_illegal, fun hlegal hshort => ?_, fun hlegal hshort hq hn => ?_, fun hlegal hq hn hlong => ?_,
    fun hshort hout => ?_⟩
  · rw [expandCopy_of_legal hlegal, if_pos hshort]
    obtain ⟨hlo, hhi, hd⟩ := hshort
    exact ⟨_, _, rfl, by rw [toNat_ofNat_of_lt (by omega)]; omega, toNat_ofNat_of_lt (by omega)⟩
  · rw [expandCopy_of_legal hlegal, if_neg hshort, if_neg (by exact Nat.not_lt.mpr hq), if_pos hn]
    have hc : (BitVec.ofNat 6 (n - 3)).toNat = n - 3 := toNat_ofNat_of_lt (by omega)
    refine ⟨_, _, rfl, ?_, by omega, toNat_ofNat_of_lt (by exact Nat.lt_succ_of_le hq)⟩
    rw [Instr.wf, hc, decide_eq_true_eq]
    omega
  · have hshort : ¬ short := by
      rintro ⟨hlo, hhi, -⟩
      omega
    rw [expandCopy_of_legal hlegal, if_neg hshort, if_neg (by exact Nat.not_lt.mpr hq), if_neg hn, if_pos hlong]
    exact ⟨_, _, rfl, toNat_ofNat_of_lt (by omega), toNat_ofNat_of_lt (by exact Nat.lt_succ_of_le hq)⟩
  · by_cases hlegal : 1 ≤ d ∧ d ≤ pos
    · rw [expandCopy_of_legal hlegal, if_neg hshort]
      by_cases hq : 65535 < q
      · exact if_pos hq
      · have hn := hout.resolve_left hq
        rw [if_neg (by exact hq), if_neg (by omega), if_neg (by omega)]
    · exact expandCopy_of_illegal hlegal

end Sys2Proof.Machine

/-!
PROOFS. A run of an XD job command by command, and the patch "skip K, XOR V, end" (41_xordelta.md R140 to R148; the spec's inference R153).
-/

namespace Sys2Proof.Machine

/-! ### The command that the engine runs next -/

theorem steps_add (m n : Nat) (s : State) : steps (m + n) s = steps n (steps m s) := by
  induction m generalizing s with
  | zero => rw [Nat.zero_add]; rfl
  | succ m ih => rw [Nat.succ_add, steps_succ, ih, steps_succ]

/-- The engine alone runs a legal XD phase, and what is left of its input, from SP on, is `bs`. -/
def State.XdInputIs (s : State) (bs : List Byte) : Prop :=
  s.engineOnly ∧ s.codecTurn ∧ s.phase = .xd ∧ s.cap.toNat ≤ s.params.bufSize ∧ s.scrLen.toNat ≤ s.params.bufSize
    ∧ s.sp.toNat + bs.length = s.scrLen.toNat ∧ s.holds .scr s.sp.toNat bs

/-- A job that has just started has its whole input before it (R182, R184). -/
theorem State.xdInputIs_of_justStarted {s : State} {bs : List Byte} (h : s.justStarted jobXd)
    (hlen : s.scrLen.toNat = bs.length) (hbytes : s.holds .scr 0 bs) : s.XdInputIs bs := by
  obtain ⟨⟨-, -, ⟨hlegal, -⟩, hrunning⟩, hengine, hrun, hjob, hsp, -, hphase⟩ := h
  replace hphase : s.phase = .xd := hphase
  have hclear : s.job ≠ jobClear := by rw [hjob]; decide
  obtain ⟨-, -, hcap, -, -, hsize⟩ := hrunning hrun
  have hscr : s.scrLen.toNat ≤ s.params.bufSize := by
    have := hsize hclear
    rwa [State.inLen_of_xd hphase, hphase] at this
  refine ⟨hengine, ⟨hlegal, State.nextTurn_of_engineOnly hengine, hrun, hclear⟩, hphase, hcap, hscr, ?_, ?_⟩
  · rw [hsp, hlen]
    exact Nat.zero_add _
  · rw [hsp]
    exact hbytes

theorem State.holds_append_left {s : State} {m : Mem} {a : Nat} {bs bs' : List Byte} (h : s.holds m a (bs ++ bs')) :
    s.holds m a bs := fun k hk => by
  rw [h k (by rw [List.length_append]; omega), List.getD_append _ _ _ _ hk]

theorem State.holds_append_right {s : State} {m : Mem} {a : Nat} {bs bs' : List Byte} (h : s.holds m a (bs ++ bs')) :
    s.holds m (a + bs.length) bs' := fun k hk => by
  rw [Nat.add_assoc, h _ (by rw [List.length_append]; omega), List.getD_append_right _ _ _ _ (by omega), Nat.add_sub_cancel_left]

theorem State.popTurn_of_engineOnly {s : State} (h : s.engineOnly) : s.popTurn = s := by
  have hturns : s.turns.tail = s.turns := by rw [h]; rfl
  rw [State.popTurn, hturns]

/-- The step runs the command that the input begins with. -/
theorem State.XdInputIs.stepOrStay_eq {s t : State} {i : Instr} {bs : List Byte} (h : s.XdInputIs (i.bytes ++ bs))
    (hwf : i.wf = true) (hmode : i.mode = .xd) (hexec : exec i s = .next t) : stepOrStay s = t := by
  obtain ⟨hengine, hturn, hphase, -, hscr, hlen, hbytes⟩ := h
  have hin : s.sp.toNat + i.length ≤ s.inLen := by
    rw [List.length_append, (encodedLength i hwf).1] at hlen
    rw [State.inLen_of_xd hphase]
    omega
  refine stepOrStay_of_step ?_
  rw [step_eq_exec_of_holds hturn (fun hlcw => by rw [hphase] at hlcw; cases hlcw) hwf (by rw [hmode, hphase]; rfl) hin
    (by rw [State.inLen_of_xd hphase, hphase]; exact hscr) (by rw [hphase]; exact State.holds_append_left hbytes),
    State.popTurn_of_engineOnly hengine, hexec]

/-- A command that completes leaves the rest of the input before the engine. -/
theorem State.XdInputIs.advance {s : State} {i : Instr} {bs : List Byte} (h : s.XdInputIs (i.bytes ++ bs))
    (hwf : i.wf = true) (count : Nat) : (s.advance i.length count).XdInputIs bs := by
  obtain ⟨hengine, hturn, hphase, hcap, hscr, hlen, hbytes⟩ := h
  have hbytesLen := (encodedLength i hwf).1
  rw [List.length_append, hbytesLen] at hlen
  have hsp : (s.advance i.length count).sp.toNat = s.sp.toNat + i.length :=
    State.toNat_advance_sp count (by rw [State.inLen_of_xd hphase]; omega)
  refine ⟨hengine, hturn, hphase, hcap, hscr, ?_, ?_⟩
  · rw [hsp, Nat.add_assoc]
    exact hlen
  · rw [hsp, ← hbytesLen]
    exact State.holds_append_right hbytes

/-! ### Skips, an update, and the end -/

theorem IsSkip.mode_eq {i : Instr} (h : IsSkip i) : i.mode = .xd := by
  obtain ⟨-, ⟨n, rfl⟩ | ⟨n, rfl⟩⟩ := h <;> rfl

theorem IsSkip.exec_eq {i : Instr} (h : IsSkip i) (s : State) : exec i s = s.xdSkip i.length (outputCount i) := by
  obtain ⟨-, ⟨n, rfl⟩ | ⟨n, rfl⟩⟩ := h <;> rfl

/-- Skips within CAP move DP by their counts and leave FRM as it was (R142, R144, R148). -/
theorem steps_skips {is : List Instr} (his : ∀ i ∈ is, IsSkip i) {s : State} {bs : List Byte}
    (h : s.XdInputIs (streamOf is ++ bs)) (hroom : s.dp.toNat + (is.map outputCount).sum ≤ s.cap.toNat) :
    (steps is.length s).XdInputIs bs ∧ (steps is.length s).dp.toNat = s.dp.toNat + (is.map outputCount).sum
      ∧ steps is.length s = { s with sp := (steps is.length s).sp, dp := (steps is.length s).dp } := by
  induction is generalizing s with
  | nil => exact ⟨h, rfl, rfl⟩
  | cons i is ih =>
    obtain ⟨hi, his⟩ := List.forall_mem_cons.mp his
    have hwf : i.wf = true := hi.1
    have hbytes : streamOf (i :: is) ++ bs = i.bytes ++ (streamOf is ++ bs) := by simp [streamOf]
    rw [hbytes] at h
    rw [List.map_cons, List.sum_cons, ← Nat.add_assoc] at hroom ⊢
    have hskip : exec i s = .next (s.advance i.length (outputCount i)) := by
      rw [hi.exec_eq, State.xdSkip, if_neg (by omega)]
    have hdp : (s.advance i.length (outputCount i)).dp.toNat = s.dp.toNat + outputCount i :=
      State.toNat_advance_dp i.length (by omega)
    rw [List.length_cons, steps_succ, h.stepOrStay_eq hwf hi.mode_eq hskip, ← hdp]
    rw [← hdp] at hroom
    exact ih his (h.advance hwf (outputCount i)) hroom

/-- The update bytes `us` XOR-ed into FRM from DP on (R143). -/
def State.xorFrm (s : State) (us : List Byte) : State :=
  { s with frm := s.frm.xorStore (s.draw .frm) us s.dp.toNat }

theorem State.peek_xorFrm_singleton (s : State) (V : Byte) (a : Nat) :
    (s.xorFrm [V]).peek .frm a = if a = s.dp.toNat then s.peek .frm s.dp.toNat ^^^ V else s.peek .frm a := by
  have hread : (s.xorFrm [V]).peek .frm a
      = if s.dp.toNat ≤ a ∧ a < s.dp.toNat + 1 then s.peek .frm a ^^^ [V].getD (a - s.dp.toNat) 0#8 else s.peek .frm a :=
    Memory.read_xorStore _ [V] _ a s.frm
  rw [hread]
  by_cases ha : a = s.dp.toNat
  · subst ha
    simp
  · rw [if_neg (by omega), if_neg ha]

/-- XD.XOR of one byte within CAP, then XD.END (R145, R147). -/
theorem steps_xor_end {s : State} {V : Byte} {bs : List Byte}
    (h : s.XdInputIs ((Instr.xdXor [V]).bytes ++ (Instr.xdEnd.bytes ++ bs))) (hroom : s.dp.toNat < s.cap.toNat) :
    steps 2 s = (((s.xorFrm [V]).advance 2 1).advance 3 0).finish := by
  obtain ⟨-, -, -, hcap, -, hlen, -⟩ := id h
  have hlenXor : (Instr.xdXor [V]).bytes.length = 2 := rfl
  have hxor : exec (.xdXor [V]) s = .next ((s.xorFrm [V]).advance 2 1) :=
    State.xdUpdate_next (len := 2) (us := [V]) (by rw [List.length_append, hlenXor] at hlen; omega) hroom hcap
  have hrest : ((s.xorFrm [V]).advance 2 1).XdInputIs (Instr.xdEnd.bytes ++ bs) :=
    State.XdInputIs.advance (s := s.xorFrm [V]) h rfl 1
  rw [steps_succ, h.stepOrStay_eq rfl rfl hxor, steps_succ, hrest.stepOrStay_eq rfl rfl (exec_xdEnd _)]
  rfl

/-- Settles O57: the skips move DP to K, and the XOR writes there and nowhere else. -/
theorem skipThenXorPatchChangesOneByte : Obligations.SkipThenXorPatchChangesOneByte := by
  intro K V s hstart hK stream hlen hbytes
  obtain ⟨hsum, hskips⟩ := expandSkip_covers K K (Nat.le_refl K)
  have hstream : stream = streamOf (expandSkip K K) ++ ((Instr.xdXor [V]).bytes ++ (Instr.xdEnd.bytes ++ [])) := by
    simp [stream, streamOf]
  have hinput := State.xdInputIs_of_justStarted hstart hlen hbytes
  rw [hstream] at hinput
  have hdp : s.dp.toNat = 0 := by
    obtain ⟨-, -, -, -, -, hdp, -⟩ := hstart
    rw [hdp]
    rfl
  obtain ⟨hrest, hdpK, hkept⟩ := steps_skips hskips hinput (by omega)
  refine ⟨(expandSkip K K).length + 2, ?_⟩
  rw [steps_add]
  generalize steps (expandSkip K K).length s = u at hrest hdpK hkept
  replace hdpK : u.dp.toNat = K := by omega
  have hcap : u.cap = s.cap := by rw [hkept]
  have hfrm (a : Nat) : u.peek .frm a = s.peek .frm a := State.peek_congr (by rw [hkept]; rfl) (by rw [hkept]) a
  rw [steps_xor_end hrest (by rw [hdpK, hcap]; exact hK)]
  refine ⟨rfl, fun a => ?_⟩
  rw [← hfrm, ← hfrm, ← hdpK]
  exact u.peek_xorFrm_singleton V a

end Sys2Proof.Machine

/-!
PROOFS. The LCW commands as one template (40_lcw.md R102 to R110): each command's source and write by name, what its checks answer, and
what each command and each step of the LCW phase leaves as it was.
-/

namespace Sys2Proof.Machine

/-! ### A command's source and write -/

/-- The bytes that a literal or a fill brings itself (R106, R109). -/
def lcwOwnBytes : Instr → List Byte
  | .lcwLit payload => payload
  | .lcwFill n v => List.replicate n.toNat v
  | _ => []

/-- The back-reference source of a copy (R107, R108, R110). -/
def State.lcwSource (s : State) : Instr → Option Int
  | .lcwRel _ d => some (s.distSource d.toNat)
  | .lcwAbs _ p | .lcwAbsl _ p => some (s.absSource p)
  | _ => none

/-- What a command writes to SCR once its checks have passed: a copy from its source, or its own bytes. -/
def State.lcwWrite (s : State) (i : Instr) (m : Memory) : Memory :=
  match s.lcwSource i with
  | some x => m.copyBack (s.draw .scr) (outputCount i) x.toNat s.dp.toNat
  | none => m.store (lcwOwnBytes i) s.dp.toNat

theorem State.lcwWrite_of_source {s : State} {i : Instr} {x : Int} (h : s.lcwSource i = some x) (m : Memory) :
    s.lcwWrite i m = m.copyBack (s.draw .scr) (outputCount i) x.toNat s.dp.toNat := by
  rw [State.lcwWrite, h]

theorem State.lcwWrite_of_no_source {s : State} {i : Instr} (h : s.lcwSource i = none) (m : Memory) :
    s.lcwWrite i m = m.store (lcwOwnBytes i) s.dp.toNat := by
  rw [State.lcwWrite, h]

/-- A command without a source writes as many bytes as it brings. -/
theorem State.length_lcwOwnBytes {s : State} {i : Instr} (hmode : i.mode = .lcw) (h : s.lcwSource i = none) :
    (lcwOwnBytes i).length = outputCount i := by
  cases i with
  | lcwRel | lcwAbs | lcwAbsl => cases h
  | lcwEnd | lcwLit => rfl
  | lcwFill n v => exact List.length_replicate
  | _ => cases hmode

theorem exec_lcw_eq {i : Instr} (hmode : i.mode = .lcw) (hend : i ≠ .lcwEnd) (s : State) :
    exec i s = s.lcwCommand i.length (outputCount i) (s.lcwSource i) (s.lcwWrite i) := by
  cases i with
  | lcwRel | lcwLit | lcwAbs | lcwAbsl => rfl
  | lcwFill n v =>
    rw [← State.length_lcwOwnBytes (s := s) hmode rfl]
    rfl
  | lcwEnd => exact absurd rfl hend
  | _ => cases hmode

/-- A command writes only the `outputCount` bytes from DP on. -/
theorem State.read_lcwWrite_outside {s : State} {i : Instr} (hmode : i.mode = .lcw) {b : Nat}
    (h : ¬ (s.dp.toNat ≤ b ∧ b < s.dp.toNat + outputCount i)) (m : Memory) :
    (s.lcwWrite i m).read (s.draw .scr) b = m.read (s.draw .scr) b := by
  cases hsource : s.lcwSource i with
  | none => rw [State.lcwWrite_of_no_source hsource, Memory.read_store, State.length_lcwOwnBytes hmode hsource, if_neg h]
  | some x => rw [State.lcwWrite_of_source hsource, Memory.read_copyBack_outside _ _ _ _ _ _ h]

/-- What a command leaves once its checks have passed. -/
def State.lcwWritten (s : State) (i : Instr) : State :=
  { s with scr := s.lcwWrite i s.scr }.advance i.length (outputCount i)

theorem State.toNat_lcwWritten_dp {s : State} {i : Instr} (h : s.dp.toNat + outputCount i ≤ s.cap.toNat) :
    (s.lcwWritten i).dp.toNat = s.dp.toNat + outputCount i := toNat_ofNat_of_le h

theorem State.onlyWrote_lcwWritten (s : State) {i : Instr} (hmode : i.mode = .lcw) :
    s.onlyWrote (s.lcwWritten i) .scr s.dp.toNat (outputCount i) :=
  State.onlyWrote_scr rfl rfl rfl fun _ hb => State.read_lcwWrite_outside hmode hb s.scr

/-! ### The checks, one by one -/

section
variable {s : State} {len count : Nat} {source : Option Int}

theorem State.lcwCommand_overrun (h : s.srcLen.toNat < s.sp.toNat + len) (write : Memory → Memory) :
    s.lcwCommand len count source write = .next (s.raise .inputOverrun) := if_pos h

theorem State.lcwCommand_badSource {x : Int} (hlen : s.sp.toNat + len ≤ s.srcLen.toNat) (hsource : source = some x)
    (hbad : s.backrefOk x = false) (write : Memory → Memory) :
    s.lcwCommand len count source write = .next (s.raise .backrefRange) := by
  rw [State.lcwCommand, if_neg (by omega), if_pos (by simp [hsource, hbad])]

theorem State.lcwCommand_noRoom (hlen : s.sp.toNat + len ≤ s.srcLen.toNat)
    (hsource : ∀ x, source = some x → s.backrefOk x = true) (hroom : s.cap.toNat < s.dp.toNat + count) (write : Memory → Memory) :
    s.lcwCommand len count source write = .next (s.raise .capacity) := by
  have hany : ¬ source.any (fun x => !s.backrefOk x) = true := by
    cases source with
    | none => simp
    | some x => simp [hsource x rfl]
  rw [State.lcwCommand, if_neg (by omega), if_neg hany, if_pos hroom]

end

/-- A backward distance names an earlier position of the output when it is from 1 to DP (R103). -/
theorem State.backrefOk_distSource_eq_false (s : State) (d : Nat) :
    s.backrefOk (s.distSource d) = false ↔ d = 0 ∨ s.dp.toNat < d := by
  rw [← Bool.not_eq_true, State.backrefOk_iff, State.distSource]
  omega

/-- A position or distance, by the address mode, is bad as R103 says. -/
theorem State.backrefOk_absSource_eq_false (s : State) (p : Half) :
    s.backrefOk (s.absSource p) = false ↔ if s.rel then p.toNat = 0 ∨ s.dp.toNat < p.toNat else s.dp.toNat ≤ p.toNat := by
  unfold State.absSource
  split_ifs
  · exact s.backrefOk_distSource_eq_false p.toNat
  · rw [← Bool.not_eq_true, State.backrefOk_iff]
    omega

/-- Settles O28: the checks of the one template, with each command's source. -/
theorem lcwCommandsRaiseInOrder : Obligations.LcwCommandsRaiseInOrder := by
  intro i s hmode hend badSource
  have hbad : badSource ↔ ∃ x, s.lcwSource i = some x ∧ s.backrefOk x = false := by
    cases i with
    | lcwRel c d => simpa [State.lcwSource] using (s.backrefOk_distSource_eq_false d.toNat).symm
    | lcwAbs c p => simpa [State.lcwSource] using (s.backrefOk_absSource_eq_false p).symm
    | lcwAbsl n p => simpa [State.lcwSource] using (s.backrefOk_absSource_eq_false p).symm
    | lcwLit | lcwFill => simp [badSource, State.lcwSource]
    | lcwEnd => exact absurd rfl hend
    | _ => cases hmode
  rw [hbad, exec_lcw_eq hmode hend]
  refine ⟨fun hlen => State.lcwCommand_overrun hlen _, fun hlen ⟨x, hx, hout⟩ => State.lcwCommand_badSource hlen hx hout _,
    fun hlen hgood hroom => State.lcwCommand_noRoom hlen (fun x hx => ?_) hroom _⟩
  by_contra hout
  exact hgood ⟨x, hx, by simpa using hout⟩

/-! ### The commands that complete -/

/-- A literal or a fill completes when its bytes are there and there is room (R104, R106, R109). -/
theorem State.lcwEmit_completes {s : State} {len : Nat} {bs : List Byte} (hsp : s.sp.toNat + len ≤ s.srcLen.toNat)
    (hdp : s.dp.toNat + bs.length ≤ s.cap.toNat) (hcap : s.cap.toNat ≤ s.params.bufSize) :
    ∃ t, s.lcwEmit len bs = .next t
      ∧ t.sp.toNat = s.sp.toNat + len ∧ t.dp.toNat = s.dp.toNat + bs.length
      ∧ t.holds .scr s.dp.toNat bs
      ∧ s.onlyWrote t .scr s.dp.toNat bs.length
      ∧ t = { s with sp := t.sp, dp := t.dp, scr := t.scr } := by
  have hread (b : Nat) : Memory.read (s.draw .scr) b (s.scr.store bs s.dp.toNat)
      = if s.dp.toNat ≤ b ∧ b < s.dp.toNat + bs.length then bs.getD (b - s.dp.toNat) 0#8 else s.peek .scr b :=
    Memory.read_store _ bs _ b _
  refine ⟨_, State.lcwCommand_next hsp (by simp) hdp hcap, toNat_ofNat_of_le hsp, toNat_ofNat_of_le hdp, fun k hk => ?_,
    State.onlyWrote_scr rfl rfl rfl fun b hb => ?_, rfl⟩
  · exact (hread _).trans (by rw [if_pos (by omega), Nat.add_sub_cancel_left])
  · exact (hread b).trans (if_neg hb)

/-- Settles O22. -/
theorem lcwLitCopiesItsPayload : Obligations.LcwLitCopiesItsPayload := by
  intro payload s hsp hdp hcap
  rw [Nat.add_assoc] at hsp ⊢
  exact State.lcwEmit_completes hsp hdp hcap

/-- Settles O25. -/
theorem lcwFillWritesARun : Obligations.LcwFillWritesARun := by
  intro n v s hsp hdp hcap
  have hlen : (List.replicate n.toNat v).length = n.toNat := List.length_replicate
  obtain ⟨t, hexec, hspT, hdpT, hbytes, hframe, hrest⟩ :=
    State.lcwEmit_completes (bs := List.replicate n.toNat v) hsp (by rwa [hlen]) hcap
  rw [hlen] at hdpT hframe
  refine ⟨t, hexec, hspT, hdpT, fun i hi => ?_, hframe, hrest⟩
  rw [hbytes i (by rwa [hlen]), List.getD_replicate _ hi]

/-- Settles O23: the source is DP - d, so the pattern is the d bytes before DP. -/
theorem lcwRelRepeatsTheDistanceBack : Obligations.LcwRelRepeatsTheDistanceBack := by
  intro c d s hsp hd hback hdp hcap
  have hsource : s.distSource d.toNat = ((s.dp.toNat - d.toNat : Nat) : Int) := (Nat.cast_sub hback).symm
  have hdist : s.dp.toNat - (s.dp.toNat - d.toNat) = d.toNat := Nat.sub_sub_self hback
  obtain ⟨t, hexec, hspT, hdpT, hbytes, hframe, hrest⟩ :=
    State.lcwCopy_completes (source := s.dp.toNat - d.toNat) (by omega) hsp hdp hcap
  rw [hdist] at hbytes
  rw [← hsource] at hexec
  exact ⟨t, hexec, hspT, hdpT, hbytes, hframe, hrest⟩

/-! ### The ends of the phase -/

theorem State.lcwTerminate_eq (s : State) (full : Bool) :
    s.lcwTerminate full =
      if s.job = jobFrame then { s with scrLen := s.dp, full := full, phase := .xd, sp := 0#32, dp := 0#32 }
      else { s with scrLen := s.dp, full := full, st := .done } := by
  unfold State.lcwTerminate
  split_ifs <;> rfl

/-- Settles O27. -/
theorem lcwEndTerminatesThePhase : Obligations.LcwEndTerminatesThePhase := by
  intro s
  have hsp : BitVec.ofNat 32 (s.sp.toNat + 1) = s.sp + 1#32 := by simp [BitVec.ofNat_add]
  have hdp : BitVec.ofNat 32 (s.dp.toNat + 0) = s.dp := by simp
  rw [exec_lcwEnd, State.advance, hsp, hdp, State.lcwTerminate_eq]

/-- A full buffer ends the phase before any fetch (R100). -/
theorem step_of_lcwFull {s : State} (hturn : s.codecTurn) (hphase : s.phase = .lcw) (hfull : s.dp = s.cap) :
    step s = .next (s.popTurn.lcwTerminate true) := by
  obtain ⟨hlegal, hengine, hrun, hjob⟩ := hturn
  rw [step_of_engineTurn hlegal hengine]
  obtain ⟨hst, -⟩ | ⟨-, hclear, -⟩ | ⟨-, -, -, -, hact⟩ | ⟨-, -, hroom, -⟩ := s.popTurn.engineAction_cases
  · exact absurd hrun hst
  · exact absurd hclear hjob
  · rw [hact]
    rfl
  · exact absurd hfull (hroom hphase)

/-- Settles O18. -/
theorem fullBufferEndsTheLcwPhase : Obligations.FullBufferEndsTheLcwPhase := by
  intro s hturn hphase hfull
  rw [step_of_lcwFull hturn hphase hfull, State.lcwTerminate_eq]
  rfl

/-! ### Input that ends inside a command -/

/-- But for a full LCW buffer the turn of a running codec is its fetch (R100, R140). -/
theorem step_eq_fetch {s : State} (hturn : s.codecTurn) (hroom : s.phase = .lcw → s.dp ≠ s.cap) :
    step s = s.popTurn.fetch.outcome s.popTurn := by
  obtain ⟨hlegal, hengine, hrun, hjob⟩ := hturn
  rw [step_of_engineTurn hlegal hengine, State.engineAction_eq_fetch (s := s.popTurn) hrun hjob hroom]

/-- No command is the front of another: a stream begins with at most one command of a table (R80). -/
theorem bytes_append_inj {i j : Instr} {rest rest' : List Byte} (hi : i.wf = true) (hj : j.wf = true) (hmode : i.mode = j.mode)
    (hctrl : i.mode ≠ .ctrl) (h : i.bytes ++ rest = j.bytes ++ rest') : i = j ∧ rest = rest' := by
  have hcode : i.encodeWith rest = j.encodeWith rest' := by
    rw [Instr.encodeWith, Instr.encodeWith, hmode, h]
    cases hj' : j.mode with
    | lcw | xd => rfl
    | ctrl => exact absurd (hmode.trans hj') hctrl
  have hdec := decodeReadsBackEveryEncoding i rest hi
  rw [hcode, decodeReadsBackEveryEncoding j rest' hj, if_neg hctrl, if_neg (hmode ▸ hctrl)] at hdec
  obtain ⟨hij, hrest⟩ := Decoded.command.inj hdec
  exact ⟨hij.symm, hrest.symm⟩

/-- A proper front of a command's bytes does not decode (R202). -/
theorem State.decode_fetchCode_of_take {s : State} {i : Instr} {k : Nat} (hwf : i.wf = true) (hmode : i.mode = s.phase.mode)
    (hk : k < i.length) (h : s.fetchBytes = i.bytes.take k) : decode s.fetchCode = .inputOverrun := by
  cases hdec : decode s.fetchCode with
  | inputOverrun => rfl
  | command j rest =>
    obtain ⟨hwfJ, hmodeJ, hbytes⟩ := State.beginsWith_of_fetch hdec
    rw [h] at hbytes
    have hwhole : i.bytes ++ [] = j.bytes ++ (rest ++ i.bytes.drop k) := by
      rw [← List.append_assoc, ← hbytes, List.take_append_drop, List.append_nil]
    obtain ⟨-, hnil⟩ := bytes_append_inj hwf hwfJ (hmode.trans hmodeJ.symm) (hmode ▸ s.phase.mode_ne_ctrl) hwhole
    have hdrop : i.bytes.length ≤ k := List.drop_eq_nil_iff.mp (List.append_eq_nil_iff.mp hnil.symm).2
    rw [(encodedLength i hwf).1] at hdrop
    omega

/-- Settles O19: the fetch reads the front of the command, which does not decode. -/
theorem truncatedCommandRaisesInputOverrun : Obligations.TruncatedCommandRaisesInputOverrun := by
  intro s i k hturn hroom hwf hmode hk hin hsize hbytes
  replace hmode : i.mode = s.phase.mode := hmode.trans (by cases s.phase <;> rfl)
  obtain ⟨hlen, hmax, -⟩ := encodedLength i hwf
  rw [hmode, ← Phase.longest_eq] at hmax
  have htake : (i.bytes.take k).length = k := List.length_take_of_le (by omega)
  have hcount : min (s.fetchEnd - s.sp.toNat) s.phase.longest = k := by
    rw [State.fetchEnd, Nat.min_eq_left hsize]
    omega
  have hfetch : s.fetchBytes = i.bytes.take k := by
    rw [State.fetchBytes, hcount, ← State.peekRange_of_holds hbytes, htake]
  have hdec : decode s.popTurn.fetchCode = .inputOverrun := State.decode_fetchCode_of_take (s := s) hwf hmode hk hfetch
  rw [step_eq_fetch hturn hroom]
  obtain ⟨j, rest, hcommand, -⟩ | ⟨-, hout, -⟩ | ⟨-, -, hact⟩ := s.popTurn.fetch_cases
  · rw [hdec] at hcommand
    cases hcommand
  · exact absurd hsize (Nat.not_le_of_lt hout)
  · rw [hact]
    rfl

/-! ### All that an LCW command and an LCW step can do -/

/-- Everything an LCW command can answer: the phase's end, a fault, or its write. -/
theorem exec_lcw_cases {s t : State} {i : Instr} (hmode : i.mode = .lcw) (h : exec i s = .next t) :
    (i = .lcwEnd ∧ t = (s.advance 1 0).lcwTerminate false)
    ∨ (∃ f, t = s.raise f)
    ∨ (s.dp.toNat + outputCount i ≤ s.cap.toNat ∧ t = s.lcwWritten i) := by
  by_cases hend : i = .lcwEnd
  · subst hend
    rw [exec_lcwEnd] at h
    injection h with h
    exact .inl ⟨rfl, h.symm⟩
  · rw [exec_lcw_eq hmode hend] at h
    obtain ⟨-, ht⟩ | ⟨-, -, ht⟩ | ⟨-, -, -, ht⟩ | ⟨-, -, hdp, -, ht⟩ := State.lcwCommand_cases h
    · exact .inr (.inl ⟨_, ht⟩)
    · exact .inr (.inl ⟨_, ht⟩)
    · exact .inr (.inl ⟨_, ht⟩)
    · exact .inr (.inr ⟨hdp, ht⟩)

/-- Everything a step of the LCW phase can be: the end by a full buffer, a fetch that runs out of input, or a command (R100). -/
theorem lcwStep_cases {s t : State} (hturn : s.codecTurn) (hphase : s.phase = .lcw) (h : step s = .next t) :
    t = s.popTurn.lcwTerminate true ∨ t = s.popTurn.raise .inputOverrun ∨ ∃ i, i.mode = .lcw ∧ exec i s.popTurn = .next t := by
  by_cases hfull : s.dp = s.cap
  · rw [step_of_lcwFull hturn hphase hfull] at h
    injection h with h
    exact .inl h.symm
  · rw [step_eq_fetch hturn (fun _ => hfull)] at h
    obtain ⟨i, rest, hdec, hact⟩ | ⟨-, -, hact⟩ | ⟨-, -, hact⟩ := s.popTurn.fetch_cases <;> rw [hact] at h
    · obtain ⟨hmode, -⟩ := State.fetched_within hdec
      rw [State.popTurn_phase, hphase] at hmode
      exact .inr (.inr ⟨i, hmode, h⟩)
    · cases h
    · injection h with h
      exact .inr (.inl h.symm)

/-- What R101 allows an LCW step: the cursors, SCR from DP on to the new DP, STATUS, CAUSE, and SCR_LEN where the phase ends. -/
def LcwFrame (s t : State) : Prop :=
  { t with sp := s.sp, dp := s.dp, scr := s.scr, st := s.st, phase := s.phase, full := s.full, cause := s.cause,
           scrLen := s.scrLen, turns := s.turns } = s
  ∧ t.turns = s.turns.tail
  ∧ s.onlyWrote t .scr s.dp.toNat (t.dp.toNat - s.dp.toNat)
  ∧ (t.scrLen ≠ s.scrLen → t.st = .done ∨ t.phase = .xd)

/-- The end of the phase writes no memory; `u` is the state with the turn taken, or with SP past LCW.END besides. -/
theorem LcwFrame.of_lcwTerminate {s u : State} (hu : u = { s.popTurn with sp := u.sp }) (full : Bool) :
    LcwFrame s (u.lcwTerminate full) := by
  rw [State.lcwTerminate_eq, hu]
  split_ifs
  · exact ⟨rfl, rfl, State.onlyWrote_scr rfl rfl rfl fun _ _ => rfl, fun _ => .inr rfl⟩
  · exact ⟨rfl, rfl, State.onlyWrote_scr rfl rfl rfl fun _ _ => rfl, fun _ => .inl rfl⟩

theorem LcwFrame.of_raise (s : State) (f : Cause) : LcwFrame s (s.popTurn.raise f) :=
  ⟨rfl, rfl, State.onlyWrote_scr rfl rfl rfl fun _ _ => rfl, fun h => absurd rfl h⟩

theorem LcwFrame.of_lcwWritten {s : State} {i : Instr} (hmode : i.mode = .lcw)
    (hdp : s.dp.toNat + outputCount i ≤ s.cap.toNat) : LcwFrame s (s.popTurn.lcwWritten i) := by
  have hcount : (s.popTurn.lcwWritten i).dp.toNat - s.dp.toNat = outputCount i := by
    rw [State.toNat_lcwWritten_dp (s := s.popTurn) hdp, State.popTurn_dp, Nat.add_sub_cancel_left]
  refine ⟨rfl, rfl, ?_, fun h => absurd rfl h⟩
  rw [hcount]
  exact s.popTurn.onlyWrote_lcwWritten hmode

/-- Settles O29, outcome by outcome. -/
theorem lcwStepFrame : Obligations.LcwStepFrame := by
  intro s t _ hturn hphase hstep
  change LcwFrame s t
  obtain rfl | rfl | ⟨i, hmode, hexec⟩ := lcwStep_cases hturn hphase hstep
  · exact .of_lcwTerminate rfl true
  · exact .of_raise s _
  · obtain ⟨-, rfl⟩ | ⟨f, rfl⟩ | ⟨hdp, rfl⟩ := exec_lcw_cases hmode hexec
    · exact .of_lcwTerminate (u := s.popTurn.advance 1 0) (by simp [State.advance]) false
    · exact .of_raise s f
    · exact .of_lcwWritten hmode hdp

end Sys2Proof.Machine

/-!
PROOFS. Every job ends, within its bound (40_lcw.md R111; 41_xordelta.md R151; the spec's inference R241): each engine step of a codec
ends the job, passes it to the XD phase, or takes a command's bytes from the input.
-/

namespace Sys2Proof.Machine

theorem State.Inv.legal {s : State} (hs : s.Inv) : s.cause ≠ .illegalCommand := by
  obtain ⟨-, -, ⟨hlegal, -⟩, -⟩ := hs
  exact hlegal

theorem State.Inv.codecTurn {s : State} (hs : s.Inv) (halone : s.engineOnly) (hrun : s.st = .running) (hjob : s.job ≠ jobClear) :
    s.codecTurn := ⟨hs.legal, State.nextTurn_of_engineOnly halone, hrun, hjob⟩

/-- A job that runs no longer has ended (R26). -/
theorem State.Inv.ended {s : State} (hs : s.Inv) (hjob : s.job ≠ 0#3) (hst : s.st ≠ .running) : s.ended := by
  obtain ⟨-, -, ⟨-, -, hidle, -⟩, -⟩ := hs
  cases hcase : s.st with
  | idle => exact absurd (hidle.mp hcase) hjob
  | running => exact absurd hcase hst
  | done => exact .inl hcase
  | fault => exact .inr hcase

theorem EngineMove.job {s t : State} (h : EngineMove s t) : t.job = s.job := by
  cases h <;> simp

/-- The engine alone steps a legal state to a legal state of the same job. -/
theorem stepOrStay_of_engineOnly {s : State} (hs : s.Inv) (halone : s.engineOnly) :
    step s = .next (stepOrStay s) ∧ (stepOrStay s).Inv ∧ (stepOrStay s).engineOnly ∧ (stepOrStay s).job = s.job := by
  obtain ⟨t, hstep⟩ := hs.completes
  have ht := stepOrStay_of_step hstep
  refine ⟨ht ▸ hstep, ht ▸ State.inv_of_step hs hstep, engineOnly_stepOrStay halone, ?_⟩
  rw [ht]
  rw [step_of_engineTurn (legal_of_step hstep) (State.nextTurn_of_engineOnly halone)] at hstep
  obtain ⟨-, rfl⟩ | ⟨-, hmove⟩ := engineAction_moves hstep
  · rfl
  · exact hmove.job

/-! ### What is left to do -/

/-- The engine steps that a running codec can still take: a byte of input each and one to end the phase, and for a FRAME job in its LCW
phase those of an XD phase whose input fills the buffer. -/
def State.stepBound (s : State) : Nat :=
  s.inLen - s.sp.toNat + 1 + if s.phase = .lcw ∧ s.job = jobFrame then s.cap.toNat + 1 else 0

/-- A command that leaves the job running has taken its bytes from the input (R31, R105, R147, R204). -/
theorem advance_of_exec {i : Instr} {s t : State} (hctrl : i.mode ≠ .ctrl) (hend : i ≠ .lcwEnd) (h : exec i s = .next t)
    (hrun : t.st = .running) : ∃ count, t = { s with scr := t.scr, frm := t.frm }.advance i.length count := by
  cases hmode : i.mode with
  | lcw =>
    obtain ⟨hi, -⟩ | ⟨f, rfl⟩ | ⟨-, rfl⟩ := exec_lcw_cases hmode h
    · exact absurd hi hend
    · cases hrun
    · exact ⟨_, rfl⟩
  | xd =>
    by_cases hi : i = .xdEnd
    · subst hi
      rw [exec_xdEnd] at h
      injection h with h
      subst h
      cases hrun
    · obtain ⟨us, hexec⟩ | ⟨count, hexec⟩ := exec_xd_template hmode hi s <;> rw [hexec] at h
      · obtain ⟨-, rfl⟩ | ⟨-, -, rfl⟩ | ⟨-, -, -, rfl⟩ := State.xdUpdate_cases h
        · cases hrun
        · cases hrun
        · exact ⟨_, rfl⟩
      · obtain ⟨-, rfl⟩ | ⟨-, rfl⟩ := State.xdSkip_cases h
        · cases hrun
        · exact ⟨_, rfl⟩
  | ctrl => exact absurd hmode hctrl

/-- Where a FRAME job passes to the XD phase, that phase's input is the DP bytes written, no more than CAP (R113, R188). `u` is `s`, or
has SP past LCW.END. -/
theorem State.stepBound_lcwTerminate_lt {s u : State} (hphase : s.phase = .lcw) (hu : u = { s with sp := u.sp })
    (hdp : s.dp.toNat ≤ s.cap.toNat) {full : Bool} (hrun : (u.lcwTerminate full).st = .running) :
    (u.lcwTerminate full).stepBound < s.stepBound := by
  rw [State.lcwTerminate_eq, hu] at hrun ⊢
  split_ifs at hrun ⊢ with hframe
  have hafter : State.stepBound { s with
      sp := 0#32, scrLen := s.dp, full := full, phase := .xd, dp := 0#32 } = s.dp.toNat + 1 := by
    simp [State.stepBound, State.inLen]
  have hbefore : s.stepBound = s.inLen - s.sp.toNat + 1 + (s.cap.toNat + 1) := by
    rw [State.stepBound, if_pos ⟨hphase, hframe⟩]
  rw [hafter, hbefore]
  omega

theorem State.stepBound_advance_lt {s t : State} {len count : Nat} (ht : t = { s with scr := t.scr, frm := t.frm }.advance len count)
    (hlen : 1 ≤ len) (hsp : s.sp.toNat + len ≤ s.inLen) : t.stepBound < s.stepBound := by
  have hspT : t.sp.toNat = s.sp.toNat + len := by
    rw [ht]
    exact State.toNat_advance_sp (s := s) count hsp
  have hin : t.inLen = s.inLen := by rw [ht]; rfl
  have hphase : t.phase = s.phase := by rw [ht]; rfl
  have hjob : t.job = s.job := by rw [ht]; rfl
  have hcap : t.cap = s.cap := by rw [ht]; rfl
  rw [State.stepBound, State.stepBound, hspT, hin, hphase, hjob, hcap]
  omega

/-- A codec's step that leaves the job running leaves fewer steps to take. -/
theorem stepBound_lt_of_step {s t : State} (hs : s.Inv) (hturn : s.codecTurn) (hstep : step s = .next t) (hrun : t.st = .running) :
    t.stepBound < s.stepBound := by
  obtain ⟨-, -, -, hrunning⟩ := hs
  obtain ⟨hlegal, hengine, hrunS, hjob⟩ := hturn
  obtain ⟨-, -, -, hdp, -, -⟩ := hrunning hrunS
  rw [step_of_engineTurn hlegal hengine] at hstep
  change t.stepBound < s.popTurn.stepBound
  obtain ⟨hst, -⟩ | ⟨-, hclear, -⟩ | ⟨-, -, hphase, -, hact⟩ | ⟨-, -, -, hact⟩ := s.popTurn.engineAction_cases
  · exact absurd hrunS hst
  · exact absurd hclear hjob
  · rw [hact] at hstep
    injection hstep with ht
    subst ht
    exact State.stepBound_lcwTerminate_lt hphase rfl hdp hrun
  · rw [hact] at hstep
    obtain ⟨i, rest, hdec, hfetch⟩ | ⟨-, -, hfetch⟩ | ⟨-, -, hfetch⟩ := s.popTurn.fetch_cases <;> rw [hfetch] at hstep
    · obtain ⟨hmode, hsp⟩ := State.fetched_within hdec
      obtain ⟨hwf, -, -⟩ := State.beginsWith_of_fetch hdec
      obtain ⟨-, -, hlen⟩ := encodedLength i hwf
      have hctrl : i.mode ≠ .ctrl := hmode ▸ Phase.mode_ne_ctrl _
      by_cases hend : i = .lcwEnd
      · subst hend
        have hphase : s.popTurn.phase = .lcw := by
          cases hcase : s.popTurn.phase with
          | lcw => rfl
          | xd =>
            rw [hcase] at hmode
            cases hmode
        rw [Action.outcome, exec_lcwEnd] at hstep
        injection hstep with ht
        subst ht
        exact State.stepBound_lcwTerminate_lt hphase (by simp [State.advance]) hdp hrun
      · obtain ⟨count, ht⟩ := advance_of_exec hctrl hend hstep hrun
        exact State.stepBound_advance_lt ht (hlen hctrl) hsp
    · cases hstep
    · injection hstep with ht
      subst ht
      cases hrun

/-! ### Runs to the end -/

theorem exists_ended_of_stepBound_le (k : Nat) {s : State} (hs : s.Inv) (halone : s.engineOnly) (hjob : s.job ≠ 0#3)
    (hclear : s.job ≠ jobClear) (hk : s.st = .running → s.stepBound ≤ k) : ∃ n, n ≤ k ∧ (steps n s).ended := by
  induction k generalizing s with
  | zero =>
    have hst : s.st ≠ .running := fun hrun => by
      have := hk hrun
      unfold State.stepBound at this
      omega
    exact ⟨0, Nat.le_refl 0, hs.ended hjob hst⟩
  | succ k ih =>
    by_cases hrun : s.st = .running
    · obtain ⟨hstep, hsT, haloneT, hjobT⟩ := stepOrStay_of_engineOnly hs halone
      have hturn := hs.codecTurn halone hrun hclear
      rw [← hjobT] at hjob hclear
      obtain ⟨n, hn, hended⟩ := ih hsT haloneT hjob hclear fun hrunT => by
        have := stepBound_lt_of_step hs hturn hstep hrunT
        have := hk hrun
        omega
      exact ⟨n + 1, by omega, hended⟩
    · exact ⟨0, Nat.zero_le _, hs.ended hjob hrun⟩

/-- A job of a codec that has just started ends within its whole bound. -/
theorem State.justStarted.exists_ended {s : State} {job : BitVec 3} (h : s.justStarted job) (hjob : job ≠ 0#3)
    (hclear : job ≠ jobClear) : ∃ n, n ≤ s.stepBound ∧ (steps n s).ended := by
  obtain ⟨hs, halone, -, rfl, -⟩ := h
  exact exists_ended_of_stepBound_le _ hs halone hjob hclear fun _ => Nat.le_refl _

/-- Settles O54: the bounds are those of the states just started, and the CLEAR step ends its job. -/
theorem everyJobEndsWithinItsBound : Obligations.EveryJobEndsWithinItsBound := by
  refine ⟨fun s h => ?_, fun s h => ?_, fun s h => ?_, fun s h => ?_⟩
  · obtain ⟨-, -, -, hjob, hsp, -, hphase⟩ := id h
    replace hphase : s.phase = .lcw := hphase
    have hframe : jobLcw ≠ jobFrame := by decide
    have hbound : s.stepBound = s.srcLen.toNat + 1 := by simp [State.stepBound, State.inLen, hphase, hjob, hsp, hframe]
    exact hbound ▸ h.exists_ended (by decide) (by decide)
  · obtain ⟨-, -, -, hjob, hsp, -, hphase⟩ := id h
    replace hphase : s.phase = .xd := hphase
    have hbound : s.stepBound = s.scrLen.toNat + 1 := by simp [State.stepBound, State.inLen, hphase, hsp]
    exact hbound ▸ h.exists_ended (by decide) (by decide)
  · obtain ⟨-, -, -, hjob, hsp, -, hphase⟩ := id h
    replace hphase : s.phase = .lcw := hphase
    have hbound : s.stepBound = s.srcLen.toNat + s.cap.toNat + 2 := by
      simp [State.stepBound, State.inLen, hphase, hjob, hsp]
      omega
    exact hbound ▸ h.exists_ended (by decide) (by decide)
  · obtain ⟨hs, halone, hrun, hjob, -⟩ := h
    obtain ⟨hstep, -⟩ := stepOrStay_of_engineOnly hs halone
    have hact : s.popTurn.engineAction = .effect s.popTurn.clearStep := by simp [State.engineAction, hrun, hjob]
    rw [step_of_engineTurn hs.legal (State.nextTurn_of_engineOnly halone), hact] at hstep
    obtain ⟨-, ht⟩ := State.clearStep_cases hstep
    exact .inl (congrArg State.st ht)

end Sys2Proof.Machine

/-!
PROOFS. The result of an LCW job does not depend on what SCR held before it (the spec's inference R112 from R102 to R110): two states
that differ in SCR alone, and agree below DP, go the same way, since a copy's source lies below DP and a write goes from DP on.
-/

namespace Sys2Proof.Machine

/-! ### Two contents of SCR that agree on the output -/

/-- The state with another content of SCR. -/
def State.withScr (s : State) (c : Memory) : State := { s with scr := c }

/-- `c` reads as SCR does on the output written so far, `[0, DP)`. -/
def State.AgreesBelowDp (s : State) (c : Memory) : Prop :=
  ∀ a, a < s.dp.toNat → (s.withScr c).peek .scr a = s.peek .scr a

/-- What a command writes does not depend on SCR from DP on: its source is an earlier position of the output (R102, R103). -/
theorem State.AgreesBelowDp.lcwWritten {s : State} {c : Memory} (h : s.AgreesBelowDp c) {i : Instr} (hmode : i.mode = .lcw)
    (hsource : ∀ x, s.lcwSource i = some x → s.backrefOk x = true) (hdp : s.dp.toNat + outputCount i ≤ s.cap.toNat) :
    (s.lcwWritten i).AgreesBelowDp (s.lcwWrite i c) := by
  intro a ha
  rw [State.toNat_lcwWritten_dp hdp] at ha
  change (s.lcwWrite i c).read (s.draw .scr) a = (s.lcwWrite i s.scr).read (s.draw .scr) a
  by_cases hnew : s.dp.toNat ≤ a ∧ a < s.dp.toNat + outputCount i
  · cases hcase : s.lcwSource i with
    | none => rw [State.lcwWrite_of_no_source hcase, State.lcwWrite_of_no_source hcase, Memory.read_store, Memory.read_store,
        State.length_lcwOwnBytes hmode hcase, if_pos hnew, if_pos hnew]
    | some x =>
      obtain ⟨hlo, hhi⟩ := (s.backrefOk_iff x).mp (hsource x hcase)
      obtain ⟨k, rfl⟩ := Nat.exists_eq_add_of_le hnew.1
      have hlt : x.toNat < s.dp.toNat := by omega
      have hmod := Nat.mod_lt k (Nat.sub_pos_of_lt hlt)
      rw [State.lcwWrite_of_source hcase, State.lcwWrite_of_source hcase, Memory.read_copyBack_pattern _ _ _ _ _ _ hlt (by omega),
        Memory.read_copyBack_pattern _ _ _ _ _ _ hlt (by omega)]
      exact h _ (by omega)
  · rw [State.read_lcwWrite_outside hmode hnew, State.read_lcwWrite_outside hmode hnew]
    exact h a (by omega)

/-- Agreement on the output is about DP and SCR alone. -/
theorem State.AgreesBelowDp.mono {s t : State} {c : Memory} (h : s.AgreesBelowDp c) (hdp : t.dp.toNat ≤ s.dp.toNat)
    (hscr : t.scr = s.scr) (hboot : t.boot = s.boot) : t.AgreesBelowDp c := by
  intro a ha
  have hread : t.peek .scr a = s.peek .scr a := State.peek_congr (by simpa using hscr) hboot a
  have hreadC : (t.withScr c).peek .scr a = (s.withScr c).peek .scr a :=
    State.peek_congr (m := .scr) (s := t.withScr c) (t := s.withScr c) rfl hboot a
  rw [hread, hreadC]
  exact h a (by omega)

theorem State.AgreesBelowDp.lcwTerminate {s : State} {c : Memory} (h : s.AgreesBelowDp c) (full : Bool) :
    (s.lcwTerminate full).AgreesBelowDp c := by
  refine h.mono ?_ (by simp) (by simp)
  rw [State.lcwTerminate_eq]
  split_ifs
  · exact Nat.zero_le _
  · exact Nat.le_refl _

/-! ### The same way whatever SCR holds from DP on -/

theorem State.lcwSource_withScr (s : State) (c : Memory) (i : Instr) : (s.withScr c).lcwSource i = s.lcwSource i := by
  cases i <;> rfl

theorem State.lcwWritten_withScr (s : State) (c : Memory) (i : Instr) :
    (s.withScr c).lcwWritten i = (s.lcwWritten i).withScr (s.lcwWrite i c) := by
  have hwrite : (s.withScr c).lcwWrite i c = s.lcwWrite i c := by
    rw [State.lcwWrite, State.lcwSource_withScr]
    rfl
  rw [← hwrite]
  rfl

theorem State.lcwTerminate_withScr (s : State) (c : Memory) (full : Bool) :
    (s.withScr c).lcwTerminate full = (s.lcwTerminate full).withScr c := by
  have hjob : (s.withScr c).job = s.job := rfl
  rw [State.lcwTerminate_eq, State.lcwTerminate_eq, hjob]
  split_ifs <;> rfl

theorem exec_withScr {s t : State} {c : Memory} {i : Instr} (hmode : i.mode = .lcw) (hcap : s.cap.toNat ≤ s.params.bufSize)
    (h : s.AgreesBelowDp c) (hexec : exec i s = .next t) :
    ∃ c', exec i (s.withScr c) = .next (t.withScr c') ∧ t.AgreesBelowDp c' := by
  by_cases hend : i = .lcwEnd
  · subst hend
    rw [exec_lcwEnd] at hexec
    injection hexec with ht
    subst ht
    have hagree : (s.advance 1 0).AgreesBelowDp c := h.mono (by simp) rfl rfl
    refine ⟨c, ?_, hagree.lcwTerminate false⟩
    exact congrArg Host.Outcome.next (State.lcwTerminate_withScr (s.advance 1 0) c false)
  · rw [exec_lcw_eq hmode hend] at hexec ⊢
    rw [State.lcwSource_withScr]
    obtain ⟨hlen, rfl⟩ | ⟨hlen, ⟨x, hx, hbad⟩, rfl⟩ | ⟨hlen, hok, hroom, rfl⟩ | ⟨hlen, hok, hdp, -, rfl⟩ :=
      State.lcwCommand_cases hexec
    · exact ⟨c, State.lcwCommand_overrun (s := s.withScr c) hlen _, h⟩
    · exact ⟨c, State.lcwCommand_badSource (s := s.withScr c) hlen hx hbad _, h⟩
    · exact ⟨c, State.lcwCommand_noRoom (s := s.withScr c) hlen hok hroom _, h⟩
    · refine ⟨s.lcwWrite i c, ?_, h.lcwWritten hmode hok hdp⟩
      exact (State.lcwCommand_next (s := s.withScr c) hlen hok hdp hcap).trans
        (congrArg Host.Outcome.next (s.lcwWritten_withScr c i))

/-- The LCW phase reads its commands from SRC. -/
theorem State.fetchCode_withScr {s : State} (hphase : s.phase = .lcw) (c : Memory) : (s.withScr c).fetchCode = s.fetchCode := by
  have hphaseC : (s.withScr c).phase = .lcw := hphase
  have hbytes : (s.withScr c).fetchBytes = s.fetchBytes := by
    rw [State.fetchBytes, State.fetchBytes, State.fetchEnd, State.fetchEnd, State.inLen_of_lcw hphase, State.inLen_of_lcw hphaseC,
      hphase, hphaseC]
    rfl
  rw [State.fetchCode, State.fetchCode, hbytes, hphase, hphaseC]

theorem step_withScr {s t : State} {c : Memory} (halone : s.engineOnly) (hturn : s.codecTurn) (hphase : s.phase = .lcw)
    (hcap : s.cap.toNat ≤ s.params.bufSize) (h : s.AgreesBelowDp c) (hstep : step s = .next t) :
    ∃ c', step (s.withScr c) = .next (t.withScr c') ∧ t.AgreesBelowDp c' := by
  have hturnC : (s.withScr c).codecTurn := hturn
  have hpop : s.popTurn = s := State.popTurn_of_engineOnly halone
  have hpopC : (s.withScr c).popTurn = s.withScr c := State.popTurn_of_engineOnly halone
  by_cases hfull : s.dp = s.cap
  · rw [step_of_lcwFull hturn hphase hfull, hpop] at hstep
    injection hstep with ht
    subst ht
    refine ⟨c, ?_, h.lcwTerminate true⟩
    rw [step_of_lcwFull hturnC hphase hfull, hpopC, State.lcwTerminate_withScr]
  · have hroom : s.phase = .lcw → s.dp ≠ s.cap := fun _ => hfull
    have hcode := State.fetchCode_withScr hphase c
    obtain ⟨i, rest, hdec, -⟩ | ⟨-, -, hfetch⟩ | ⟨hdec, hsize, hfetch⟩ := s.fetch_cases
    · obtain ⟨hmode, -⟩ := State.fetched_within hdec
      rw [hphase] at hmode
      rw [step_eq_exec_of_decode hturn hroom hdec, hpop] at hstep
      rw [step_eq_exec_of_decode hturnC hroom (hcode ▸ hdec), hpopC]
      exact exec_withScr hmode hcap h hstep
    · rw [step_eq_fetch hturn hroom, hpop, hfetch] at hstep
      cases hstep
    · rw [step_eq_fetch hturn hroom, hpop, hfetch] at hstep
      injection hstep with ht
      subst ht
      refine ⟨c, ?_, h⟩
      have hfetchC : (s.withScr c).fetch = .effect (.next ((s.withScr c).raise .inputOverrun)) := by
        rw [State.fetch, hcode, hdec]
        exact if_neg (Nat.not_lt_of_le hsize)
      rw [step_eq_fetch hturnC hroom, hpopC, hfetchC]
      rfl

/-! ### Whole runs -/

/-- The engine rests once its job has ended (R217). -/
theorem step_of_rest {s : State} (hlegal : s.cause ≠ .illegalCommand) (halone : s.engineOnly) (hst : s.st ≠ .running) :
    step s = .next s := by
  rw [step_of_engineTurn hlegal (State.nextTurn_of_engineOnly halone), State.popTurn_of_engineOnly halone, State.engineAction,
    if_pos hst]
  rfl

/-- A running LCW job is in the LCW phase (R182). -/
theorem State.Inv.lcw_of_jobLcw {s : State} (hs : s.Inv) (hjob : s.job = jobLcw) : s.phase = .lcw := by
  obtain ⟨-, -, ⟨-, -, -, -, hxd, -⟩, -⟩ := hs
  cases hphase : s.phase with
  | lcw => rfl
  | xd =>
    have := hxd hphase
    rw [hjob] at this
    exact absurd this (by decide)

theorem stepOrStay_withScr {s : State} {c : Memory} (hs : s.Inv) (halone : s.engineOnly) (hjob : s.job = jobLcw)
    (h : s.AgreesBelowDp c) :
    ∃ c', stepOrStay (s.withScr c) = (stepOrStay s).withScr c' ∧ (stepOrStay s).AgreesBelowDp c' := by
  by_cases hrun : s.st = .running
  · have hclear : s.job ≠ jobClear := by rw [hjob]; decide
    obtain ⟨-, -, -, hrunning⟩ := id hs
    obtain ⟨-, -, hcap, -⟩ := hrunning hrun
    obtain ⟨hstep, -⟩ := stepOrStay_of_engineOnly hs halone
    obtain ⟨c', hstepC, hagree⟩ :=
      step_withScr halone (hs.codecTurn halone hrun hclear) (hs.lcw_of_jobLcw hjob) hcap h hstep
    exact ⟨c', stepOrStay_of_step hstepC, hagree⟩
  · rw [stepOrStay_of_step (step_of_rest hs.legal halone hrun)]
    exact ⟨c, stepOrStay_of_step (step_of_rest (s := s.withScr c) hs.legal halone hrun), h⟩

theorem steps_withScr (n : Nat) {s : State} {c : Memory} (hs : s.Inv) (halone : s.engineOnly) (hjob : s.job = jobLcw)
    (h : s.AgreesBelowDp c) : ∃ c', steps n (s.withScr c) = (steps n s).withScr c' ∧ (steps n s).AgreesBelowDp c' := by
  induction n generalizing s c with
  | zero => exact ⟨c, rfl, h⟩
  | succ n ih =>
    obtain ⟨c', hstepC, hagree⟩ := stepOrStay_withScr hs halone hjob h
    obtain ⟨-, hsT, haloneT, hjobT⟩ := stepOrStay_of_engineOnly hs halone
    rw [steps_succ, steps_succ, hstepC]
    exact ih hsT haloneT (hjobT.trans hjob) hagree

/-- Settles O55: at the start DP is 0, so any content of SCR agrees with any other. -/
theorem lcwResultIgnoresWhatScrHeld : Obligations.LcwResultIgnoresWhatScrHeld := by
  rintro s s' n ⟨hs, halone, -, hjob, -, hdp, -⟩ hs'
  have hagree : s.AgreesBelowDp s'.scr := fun a ha => by
    rw [hdp] at ha
    exact absurd ha (Nat.not_lt_zero a)
  obtain ⟨c, hsteps, hagree⟩ := steps_withScr n hs halone hjob hagree
  rw [show s' = s.withScr s'.scr from hs', hsteps]
  exact ⟨rfl, hagree⟩

end Sys2Proof.Machine

/-!
PROOFS. A stream of literals decodes to exactly its bytes (the spec's inference R114 from 40_lcw.md R100, R105, R106): literal by
literal the output grows by the payload, and LCW.END or the full buffer ends the job.
-/

namespace Sys2Proof.Machine

/-! ### The input and the output of an LCW job under way -/

theorem State.holds_append {s : State} {m : Mem} {a : Nat} {bs bs' : List Byte} (h : s.holds m a bs)
    (h' : s.holds m (a + bs.length) bs') : s.holds m a (bs ++ bs') := by
  intro k hk
  by_cases hfront : k < bs.length
  · rw [h k hfront, List.getD_append _ _ _ _ hfront]
  · obtain ⟨j, rfl⟩ := Nat.exists_eq_add_of_le (Nat.le_of_not_lt hfront)
    rw [List.length_append] at hk
    rw [← Nat.add_assoc, h' j (by omega), List.getD_append_right _ _ _ _ (by omega), Nat.add_sub_cancel_left]

/-- The engine alone runs a legal LCW job, what is left of its input, from SP on, is `bs`, and its output so far is `out`. -/
structure State.LcwStreamIs (s : State) (out bs : List Byte) : Prop where
  alone : s.engineOnly
  turn : s.codecTurn
  lcwJob : s.job = jobLcw
  lcwPhase : s.phase = .lcw
  capFits : s.cap.toNat ≤ s.params.bufSize
  srcFits : s.srcLen.toNat ≤ s.params.srcSize
  inputLeft : s.sp.toNat + bs.length = s.srcLen.toNat
  input : s.holds .src s.sp.toNat bs
  outputLength : s.dp.toNat = out.length
  output : s.holds .scr 0 out

theorem State.lcwStreamIs_of_justStarted {s : State} {bs : List Byte} (h : s.justStarted jobLcw)
    (hlen : s.srcLen.toNat = bs.length) (hbytes : s.holds .src 0 bs) : s.LcwStreamIs [] bs := by
  obtain ⟨hs, halone, hrun, hjob, hsp, hdp, hphase⟩ := h
  replace hphase : s.phase = .lcw := hphase
  have hclear : s.job ≠ jobClear := by rw [hjob]; decide
  obtain ⟨-, -, -, hrunning⟩ := id hs
  obtain ⟨-, -, hcap, -, -, hsize⟩ := hrunning hrun
  have hsrc := hsize hclear
  rw [State.inLen_of_lcw hphase, hphase] at hsrc
  have hsp0 : s.sp.toNat = 0 := by rw [hsp]; rfl
  exact
    { alone := halone
      turn := hs.codecTurn halone hrun hclear
      lcwJob := hjob
      lcwPhase := hphase
      capFits := hcap
      srcFits := hsrc
      inputLeft := by rw [hsp0, hlen, Nat.zero_add]
      input := by rw [hsp0]; exact hbytes
      outputLength := by rw [hdp]; rfl
      output := fun k hk => absurd hk (Nat.not_lt_zero k) }

/-- With room left the step runs the command that the input begins with. -/
theorem State.LcwStreamIs.stepOrStay_eq {s t : State} {i : Instr} {out bs : List Byte} (h : s.LcwStreamIs out (i.bytes ++ bs))
    (hroom : out.length < s.cap.toNat) (hwf : i.wf = true) (hmode : i.mode = .lcw) (hexec : exec i s = .next t) :
    stepOrStay s = t := by
  have hphase := h.lcwPhase
  obtain ⟨hlen, -⟩ := encodedLength i hwf
  have hinput := h.inputLeft
  rw [List.length_append, hlen] at hinput
  have hnotFull : s.phase = .lcw → s.dp ≠ s.cap := fun _ hfull => by
    rw [← h.outputLength, hfull] at hroom
    exact Nat.lt_irrefl _ hroom
  have hin : s.sp.toNat + i.length ≤ s.inLen := by
    rw [State.inLen_of_lcw hphase]
    omega
  have hsize : s.inLen ≤ s.params.size s.phase.input := by
    rw [State.inLen_of_lcw hphase, hphase]
    exact h.srcFits
  have hbytes : s.holds s.phase.input s.sp.toNat i.bytes := by
    rw [hphase]
    exact State.holds_append_left h.input
  refine stepOrStay_of_step ?_
  rw [step_eq_exec_of_holds h.turn hnotFull hwf (by rw [hmode, hphase]; rfl) hin hsize hbytes,
    State.popTurn_of_engineOnly h.alone, hexec]

/-! ### One literal, then all of them -/

/-- A literal that fits appends its payload to the output (R106). -/
theorem State.LcwStreamIs.literal {s : State} {payload out bs : List Byte}
    (h : s.LcwStreamIs out ((Instr.lcwLit payload).bytes ++ bs)) (hlo : 1 ≤ payload.length) (hhi : payload.length ≤ 63)
    (hroom : (out ++ payload).length ≤ s.cap.toNat) :
    (stepOrStay s).LcwStreamIs (out ++ payload) bs ∧ (stepOrStay s).cap = s.cap := by
  rw [List.length_append] at hroom
  have hdp := h.outputLength
  have hinput := h.inputLeft
  have hlen : (Instr.lcwLit payload).bytes.length = 1 + payload.length := Nat.add_comm _ _
  rw [List.length_append, hlen] at hinput
  obtain ⟨t, hexec, hspT, hdpT, hpayload, honly, ht⟩ :=
    lcwLitCopiesItsPayload payload s (by omega) (by omega) h.capFits
  rw [h.stepOrStay_eq (by omega) (wf_lcwLit_iff.mpr ⟨hlo, hhi⟩) rfl hexec]
  have hsrc (a : Nat) : t.peek .src a = s.peek .src a := honly .src a (by simp)
  have hrest : s.holds .src t.sp.toNat bs := by
    have := State.holds_append_right h.input
    rwa [hlen, ← Nat.add_assoc, ← hspT] at this
  have hturns : t.turns = s.turns := by rw [ht]
  refine ⟨?_, by rw [ht]⟩
  exact
    { alone := hturns.trans h.alone
      turn := by rw [ht]; exact h.turn
      lcwJob := by rw [ht]; exact h.lcwJob
      lcwPhase := by rw [ht]; exact h.lcwPhase
      capFits := by rw [ht]; exact h.capFits
      srcFits := by rw [ht]; exact h.srcFits
      inputLeft := by
        have hsrcLen : t.srcLen = s.srcLen := by rw [ht]
        rw [hsrcLen, hspT]
        omega
      input := fun k hk => (hsrc _).trans (hrest k hk)
      outputLength := by rw [hdpT, hdp, List.length_append]
      output := by
        refine State.holds_append (fun k hk => ?_) ?_
        · rw [honly .scr (0 + k) (by omega)]
          exact h.output k hk
        · rw [Nat.zero_add, ← hdp]
          exact hpayload }

theorem State.LcwStreamIs.literals {pieces : List (List Byte)} (hpieces : ∀ p ∈ pieces, 1 ≤ p.length ∧ p.length ≤ 63)
    {s : State} {out bs : List Byte} (h : s.LcwStreamIs out (streamOf (pieces.map Instr.lcwLit) ++ bs))
    (hroom : (out ++ pieces.flatten).length ≤ s.cap.toNat) :
    (steps pieces.length s).LcwStreamIs (out ++ pieces.flatten) bs ∧ (steps pieces.length s).cap = s.cap := by
  induction pieces generalizing s out with
  | nil => simpa [steps, streamOf] using h
  | cons p pieces ih =>
    obtain ⟨⟨hlo, hhi⟩, hpieces⟩ := List.forall_mem_cons.mp hpieces
    have hstream : streamOf ((p :: pieces).map Instr.lcwLit) ++ bs
        = (Instr.lcwLit p).bytes ++ (streamOf (pieces.map Instr.lcwLit) ++ bs) := by simp [streamOf]
    rw [hstream] at h
    rw [List.flatten_cons, ← List.append_assoc] at hroom ⊢
    have hfits : (out ++ p).length ≤ s.cap.toNat := by
      rw [List.length_append] at hroom
      omega
    obtain ⟨hnext, hcap⟩ := h.literal hlo hhi hfits
    rw [← hcap] at hroom ⊢
    exact ih hpieces hnext hroom

/-! ### The end -/

/-- The end of an LCW job by a full buffer or by LCW.END (R100, R105, R113): it is DONE and has its output. -/
theorem State.LcwStreamIs.finished {s : State} {out bs : List Byte} (h : s.LcwStreamIs out bs)
    (hend : out.length = s.cap.toNat ∨ out.length < s.cap.toNat ∧ bs = Instr.lcwEnd.bytes) :
    (stepOrStay s).st = .done ∧ (stepOrStay s).scrLen.toNat = out.length ∧ (stepOrStay s).holds .scr 0 out := by
  have hframe : s.job ≠ jobFrame := by rw [h.lcwJob]; decide
  obtain hfull | ⟨hroom, rfl⟩ := hend
  · have hdp : s.dp = s.cap := BitVec.eq_of_toNat_eq (h.outputLength.trans hfull)
    have hstep := fullBufferEndsTheLcwPhase s h.turn h.lcwPhase hdp
    rw [if_neg hframe] at hstep
    rw [stepOrStay_of_step hstep]
    exact ⟨rfl, h.outputLength, h.output⟩
  · have hexec := lcwEndTerminatesThePhase s
    rw [if_neg hframe] at hexec
    have h' : s.LcwStreamIs out (Instr.lcwEnd.bytes ++ []) := h
    rw [h'.stepOrStay_eq hroom rfl rfl hexec]
    exact ⟨rfl, h.outputLength, h.output⟩

/-- Settles O56: the literals one by one, then the end. -/
theorem literalStreamsRoundTrip : Obligations.LiteralStreamsRoundTrip := by
  intro pieces withEnd s hstart hpieces hfits hfull stream hlen hbytes
  have hstream : stream = streamOf (pieces.map Instr.lcwLit) ++ if withEnd then Instr.lcwEnd.bytes else [] := by
    cases withEnd <;> simp [stream, streamOf]
  have hinput := State.lcwStreamIs_of_justStarted hstart hlen hbytes
  rw [hstream] at hinput
  obtain ⟨hrest, hcap⟩ := hinput.literals hpieces hfits
  refine ⟨pieces.length + 1, ?_⟩
  rw [steps_add]
  refine hrest.finished ?_
  rw [List.nil_append, hcap]
  cases withEnd with
  | false => exact .inl (hfull rfl)
  | true => exact (Nat.eq_or_lt_of_le hfits).imp_right fun hroom => ⟨hroom, rfl⟩

end Sys2Proof.Machine

/-!
PROOFS. The XD commands as their two templates (41_xordelta.md R142 to R150): what each answers where its checks pass and where one
fails, and all that a step of the XD phase can change (the spec's inference R141).
-/

namespace Sys2Proof.Machine

/-! ### The commands by their templates -/

/-- Every XD command but XD.END is an update of as many bytes as its count, the same bytes in every state, or one of the two skips. -/
theorem exec_xd_forms {i : Instr} (hmode : i.mode = .xd) (hend : i ≠ .xdEnd) :
    (∃ us : List Byte, us.length = outputCount i ∧ ∀ s, exec i s = s.xdUpdate i.length us)
    ∨ (((∃ c, i = .xdSkip c) ∨ ∃ c, i = .xdSkipl c) ∧ ∀ s, exec i s = s.xdSkip i.length (outputCount i)) := by
  cases i with
  | xdFill n v => exact .inl ⟨_, List.length_replicate, fun _ => rfl⟩
  | xdXor payload => exact .inl ⟨_, rfl, fun _ => rfl⟩
  | xdSkip n => exact .inr ⟨.inl ⟨n, rfl⟩, fun _ => rfl⟩
  | xdEnd => exact absurd rfl hend
  | xdSkipl n => exact .inr ⟨.inr ⟨n, rfl⟩, fun _ => rfl⟩
  | xdXorl payload => exact .inl ⟨_, rfl, fun _ => rfl⟩
  | xdFilll n v => exact .inl ⟨_, List.length_replicate, fun _ => rfl⟩
  | _ => cases hmode

/-! ### The checks, one by one -/

section
variable {s : State} {len count : Nat} {us : List Byte}

theorem State.xdUpdate_overrun (h : s.scrLen.toNat < s.sp.toNat + len) : s.xdUpdate len us = .next (s.raise .inputOverrun) :=
  if_pos h

theorem State.xdUpdate_noRoom (hlen : s.sp.toNat + len ≤ s.scrLen.toNat) (hroom : s.cap.toNat < s.dp.toNat + us.length) :
    s.xdUpdate len us = .next (s.raise .capacity) := by
  rw [State.xdUpdate, if_neg (by omega), if_pos hroom]

theorem State.xdSkip_noRoom (h : s.cap.toNat < s.dp.toNat + count) : s.xdSkip len count = .next (s.raise .capacity) :=
  if_pos h

theorem State.xdSkip_next (h : s.dp.toNat + count ≤ s.cap.toNat) : s.xdSkip len count = .next (s.advance len count) :=
  if_neg (Nat.not_lt_of_le h)

end

/-- Settles O34: the checks of the two templates; a skip has only the second. -/
theorem xdCommandsRaiseInOrder : Obligations.XdCommandsRaiseInOrder := by
  intro i s hmode hend updates
  obtain ⟨us, hcount, hexec⟩ | ⟨hskip, hexec⟩ := exec_xd_forms hmode hend <;> rw [hexec]
  · rw [← hcount]
    exact ⟨fun _ hlen => State.xdUpdate_overrun hlen, State.xdUpdate_noRoom⟩
  · have hnoUpdate : ¬ updates := by
      obtain ⟨c, rfl⟩ | ⟨c, rfl⟩ := hskip <;> exact id
    exact ⟨fun hupdate => absurd hupdate hnoUpdate, fun _ hroom => State.xdSkip_noRoom hroom⟩

/-- Settles O33. -/
theorem xdEndFinishesTheJob : Obligations.XdEndFinishesTheJob := by
  intro s
  have hsp : BitVec.ofNat 32 (s.sp.toNat + 3) = s.sp + 3#32 := by simp [BitVec.ofNat_add]
  have hdp : BitVec.ofNat 32 (s.dp.toNat + 0) = s.dp := by simp
  rw [exec_xdEnd, State.advance, hsp, hdp, State.finish]

/-! ### The commands that complete -/

/-- Where SRC and SCR are as they were and FRM reads the same outside `[a, a + n)`, only those bytes were written. -/
theorem State.onlyWrote_frm {s t : State} {a n : Nat} (hsrc : t.src = s.src) (hscr : t.scr = s.scr) (hboot : t.boot = s.boot)
    (hfrm : ∀ b, ¬ (a ≤ b ∧ b < a + n) → t.peek .frm b = s.peek .frm b) : s.onlyWrote t .frm a n := by
  intro m b hout
  cases m with
  | src => exact State.peek_congr (by simpa using hsrc) hboot b
  | scr => exact State.peek_congr (by simpa using hscr) hboot b
  | frm => exact hfrm b (fun hin => hout ⟨rfl, hin⟩)

/-- What XOR-ing `us` into FRM from DP on leaves at each address (R143). -/
theorem State.peek_xorFrm (s : State) (us : List Byte) (a : Nat) :
    (s.xorFrm us).peek .frm a
      = if s.dp.toNat ≤ a ∧ a < s.dp.toNat + us.length then s.peek .frm a ^^^ us.getD (a - s.dp.toNat) 0#8 else s.peek .frm a :=
  Memory.read_xorStore _ us _ a s.frm

theorem State.onlyWrote_xorFrm (s : State) (us : List Byte) : s.onlyWrote (s.xorFrm us) .frm s.dp.toNat us.length :=
  State.onlyWrote_frm rfl rfl rfl fun b hb => (s.peek_xorFrm us b).trans (if_neg hb)

theorem State.xdSkip_moves_dp {s : State} {len count : Nat} (hsp : s.sp.toNat + len ≤ s.scrLen.toNat)
    (hdp : s.dp.toNat + count ≤ s.cap.toNat) :
    ∃ t, s.xdSkip len count = .next t ∧ t.sp.toNat = s.sp.toNat + len ∧ t.dp.toNat = s.dp.toNat + count
      ∧ (∀ m a, t.peek m a = s.peek m a) ∧ t = { s with sp := t.sp, dp := t.dp } := by
  refine ⟨_, State.xdSkip_next hdp, toNat_ofNat_of_le hsp, toNat_ofNat_of_le hdp, fun m a => State.peek_congr ?_ rfl a, rfl⟩
  cases m <;> rfl

/-- Settles O30. -/
theorem xdSkipsMoveTheOutputCursor : Obligations.XdSkipsMoveTheOutputCursor :=
  ⟨fun _ _ hsp hdp => State.xdSkip_moves_dp hsp hdp, fun _ _ hsp hdp => State.xdSkip_moves_dp hsp hdp⟩

/-- An update completes when its bytes are there and there is room (R142, R143). -/
theorem State.xdUpdate_xors_frm {s : State} {len : Nat} {us : List Byte} (hsp : s.sp.toNat + len ≤ s.scrLen.toNat)
    (hdp : s.dp.toNat + us.length ≤ s.cap.toNat) (hcap : s.cap.toNat ≤ s.params.bufSize) :
    ∃ t, s.xdUpdate len us = .next t
      ∧ t.sp.toNat = s.sp.toNat + len ∧ t.dp.toNat = s.dp.toNat + us.length
      ∧ (∀ k, k < us.length → t.peek .frm (s.dp.toNat + k) = s.peek .frm (s.dp.toNat + k) ^^^ us.getD k 0x00#8)
      ∧ s.onlyWrote t .frm s.dp.toNat us.length
      ∧ t = { s with sp := t.sp, dp := t.dp, frm := t.frm } := by
  refine ⟨_, State.xdUpdate_next hsp hdp hcap, toNat_ofNat_of_le hsp, toNat_ofNat_of_le hdp, fun k hk => ?_,
    s.onlyWrote_xorFrm us, rfl⟩
  exact (s.peek_xorFrm us _).trans (by rw [if_pos (by omega), Nat.add_sub_cancel_left])

/-- Settles O31. -/
theorem xdXorsUpdateTheFrame : Obligations.XdXorsUpdateTheFrame := by
  intro i head payload s hi hsp hdp hcap
  have hexec : exec i s = s.xdUpdate (head + payload.length) payload := by
    obtain ⟨rfl, rfl⟩ | ⟨rfl, rfl⟩ := hi <;> rfl
  rw [Nat.add_assoc] at hsp ⊢
  rw [hexec]
  exact State.xdUpdate_xors_frm hsp hdp hcap

/-- Settles O32. -/
theorem xdFillsUpdateTheFrame : Obligations.XdFillsUpdateTheFrame := by
  intro i len n v s hi hsp hdp hcap
  have hexec : exec i s = s.xdUpdate len (List.replicate n v) := by
    obtain ⟨rfl, c, rfl, rfl⟩ | ⟨rfl, c, rfl, rfl⟩ := hi <;> rfl
  have hlen : (List.replicate n v).length = n := List.length_replicate
  obtain ⟨t, hstep, hspT, hdpT, hbytes, hframe, hrest⟩ :=
    State.xdUpdate_xors_frm (us := List.replicate n v) hsp (by rwa [hlen]) hcap
  rw [hlen] at hdpT hframe
  refine ⟨t, hexec.trans hstep, hspT, hdpT, fun k hk => ?_, hframe, hrest⟩
  rw [hbytes k (by rwa [hlen]), List.getD_replicate _ hk]

/-! ### All that an XD step can change -/

/-- What R141 allows an XD step: the cursors, FRM from DP on to the new DP, STATE and CAUSE. -/
def XdFrame (s t : State) : Prop :=
  { t with sp := s.sp, dp := s.dp, frm := s.frm, st := s.st, cause := s.cause, turns := s.turns } = s
  ∧ t.turns = s.turns.tail
  ∧ s.onlyWrote t .frm s.dp.toNat (t.dp.toNat - s.dp.toNat)

/-- The engine's moves in the XD phase, of which only an update writes a memory. -/
theorem EngineMove.xdFrame {s t : State} (h : EngineMove s.popTurn t) (hjob : s.job ≠ jobClear) (hphase : s.phase = .xd) :
    XdFrame s t := by
  cases h with
  | clears hclear => exact absurd hclear hjob
  | fillsBuffer _ hlcw | endsLcw _ hlcw | writesScr _ hlcw =>
    rw [State.popTurn_phase, hphase] at hlcw
    cases hlcw
  | endsXd | faults | skips => exact ⟨rfl, rfl, State.onlyWrote_frm rfl rfl rfl fun _ _ => rfl⟩
  | updatesFrm _ _ len us hsp hdp =>
    have hcount : ((s.popTurn.xorFrm us).advance len us.length).dp.toNat - s.dp.toNat = us.length :=
      Nat.sub_eq_of_eq_add' (State.toNat_advance_dp (s := s.popTurn.xorFrm us) len hdp)
    refine ⟨rfl, rfl, ?_⟩
    change s.onlyWrote _ .frm _ (((s.popTurn.xorFrm us).advance len us.length).dp.toNat - s.dp.toNat)
    rw [hcount]
    exact s.popTurn.onlyWrote_xorFrm us

/-- Settles O35, move by move. -/
theorem xdStepFrame : Obligations.XdStepFrame := by
  rintro s t - ⟨hlegal, hengine, hrun, hjob⟩ hphase hstep
  rw [step_of_engineTurn hlegal hengine] at hstep
  obtain ⟨hst, -⟩ | ⟨-, hmove⟩ := engineAction_moves hstep
  · exact absurd hrun hst
  · exact hmove.xdFrame hjob hphase

end Sys2Proof.Machine

/-!
PROOFS. A patch applied twice leaves the frame as it was (the spec's inference R154 from 41_xordelta.md R143 to R150): two states that
differ in REL and FRM alone take the same XD steps, and the XOR of their frames stays what it was, byte by byte.
-/

namespace Sys2Proof.Machine

/-! ### Two frames and their difference -/

/-- `s'` is `s` but for REL and FRM, and each byte of its FRM differs from that of `s` by `d`. -/
def State.FrmDiffersBy (s s' : State) (d : Nat → Byte) : Prop :=
  (∃ rel frm, s' = { s with rel := rel, frm := frm }) ∧ ∀ a, s'.peek .frm a = s.peek .frm a ^^^ d a

section
variable {s s' t : State} {d : Nat → Byte}

theorem State.FrmDiffersBy.advance (h : s.FrmDiffersBy s' d) (len count : Nat) :
    (s.advance len count).FrmDiffersBy (s'.advance len count) d := by
  obtain ⟨⟨rel, frm, rfl⟩, hd⟩ := h
  exact ⟨⟨rel, frm, rfl⟩, hd⟩

theorem State.FrmDiffersBy.raise (h : s.FrmDiffersBy s' d) (f : Cause) : (s.raise f).FrmDiffersBy (s'.raise f) d := by
  obtain ⟨⟨rel, frm, rfl⟩, hd⟩ := h
  exact ⟨⟨rel, frm, rfl⟩, hd⟩

theorem State.FrmDiffersBy.finish (h : s.FrmDiffersBy s' d) : s.finish.FrmDiffersBy s'.finish d := by
  obtain ⟨⟨rel, frm, rfl⟩, hd⟩ := h
  exact ⟨⟨rel, frm, rfl⟩, hd⟩

/-- The same bytes XOR-ed into both frames leave their difference (R143). -/
theorem State.FrmDiffersBy.xorFrm (h : s.FrmDiffersBy s' d) (us : List Byte) : (s.xorFrm us).FrmDiffersBy (s'.xorFrm us) d := by
  obtain ⟨⟨rel, frm, rfl⟩, hd⟩ := h
  refine ⟨⟨rel, _, rfl⟩, fun a => ?_⟩
  rw [State.peek_xorFrm, State.peek_xorFrm, hd]
  split_ifs
  · ac_rfl
  · rfl

/-! ### The same steps whatever FRM holds -/

theorem State.FrmDiffersBy.exec (h : s.FrmDiffersBy s' d) {i : Instr} (hmode : i.mode = .xd) (hcap : s.cap.toNat ≤ s.params.bufSize)
    (hexec : exec i s = .next t) : ∃ t', Machine.exec i s' = .next t' ∧ t.FrmDiffersBy t' d := by
  obtain ⟨rel, frm, hs'⟩ := h.1
  by_cases hend : i = .xdEnd
  · subst hend
    rw [exec_xdEnd] at hexec
    injection hexec with ht
    subst ht
    exact ⟨_, exec_xdEnd s', (h.advance 3 0).finish⟩
  · obtain ⟨us, -, hform⟩ | ⟨-, hform⟩ := exec_xd_forms hmode hend <;> rw [hform] at hexec ⊢
    · obtain ⟨hlen, rfl⟩ | ⟨hlen, hroom, rfl⟩ | ⟨hlen, hdp, -, rfl⟩ := State.xdUpdate_cases hexec
      · exact ⟨_, State.xdUpdate_overrun (by rw [hs']; exact hlen), h.raise _⟩
      · exact ⟨_, State.xdUpdate_noRoom (by rw [hs']; exact hlen) (by rw [hs']; exact hroom), h.raise _⟩
      · exact ⟨_, State.xdUpdate_next (by rw [hs']; exact hlen) (by rw [hs']; exact hdp) (by rw [hs']; exact hcap),
          (h.xorFrm us).advance _ _⟩
    · obtain ⟨hroom, rfl⟩ | ⟨hdp, rfl⟩ := State.xdSkip_cases hexec
      · exact ⟨_, State.xdSkip_noRoom (by rw [hs']; exact hroom), h.raise _⟩
      · exact ⟨_, State.xdSkip_next (by rw [hs']; exact hdp), h.advance _ _⟩

/-- The XD phase reads its commands from SCR. -/
theorem State.FrmDiffersBy.fetchCode_eq (h : s.FrmDiffersBy s' d) (hphase : s.phase = .xd) : s'.fetchCode = s.fetchCode := by
  obtain ⟨⟨rel, frm, rfl⟩, -⟩ := h
  simp only [State.fetchCode, State.fetchBytes, State.fetchEnd, State.inLen, hphase]
  rfl

theorem State.FrmDiffersBy.step (h : s.FrmDiffersBy s' d) (halone : s.engineOnly) (hturn : s.codecTurn) (hphase : s.phase = .xd)
    (hcap : s.cap.toNat ≤ s.params.bufSize) (hstep : step s = .next t) :
    ∃ t', Machine.step s' = .next t' ∧ t.FrmDiffersBy t' d := by
  have hcode := h.fetchCode_eq hphase
  obtain ⟨rel, frm, hs'⟩ := h.1
  have hturn' : s'.codecTurn := by rw [hs']; exact hturn
  have hroom : s.phase = .lcw → s.dp ≠ s.cap := fun hlcw => by rw [hphase] at hlcw; cases hlcw
  have hroom' : s'.phase = .lcw → s'.dp ≠ s'.cap := by rw [hs']; exact hroom
  have hpop : s.popTurn = s := State.popTurn_of_engineOnly halone
  have hpop' : s'.popTurn = s' := State.popTurn_of_engineOnly (by rw [hs']; exact halone)
  obtain ⟨i, rest, hdec, -⟩ | ⟨-, -, hfetch⟩ | ⟨hdec, hsize, hfetch⟩ := s.fetch_cases
  · obtain ⟨hmode, -⟩ := State.fetched_within hdec
    rw [hphase] at hmode
    rw [step_eq_exec_of_decode hturn hroom hdec, hpop] at hstep
    rw [step_eq_exec_of_decode hturn' hroom' (hcode ▸ hdec), hpop']
    exact h.exec hmode hcap hstep
  · rw [step_eq_fetch hturn hroom, hpop, hfetch] at hstep
    cases hstep
  · rw [step_eq_fetch hturn hroom, hpop, hfetch] at hstep
    injection hstep with ht
    subst ht
    have hfetch' : s'.fetch = .effect (.next (s'.raise .inputOverrun)) := by
      rw [State.fetch, hcode, hdec]
      exact if_neg (by rw [hs']; exact Nat.not_lt_of_le hsize)
    refine ⟨_, ?_, h.raise _⟩
    rw [step_eq_fetch hturn' hroom', hpop', hfetch']
    rfl

end

/-! ### Whole runs of an XD job -/

theorem steps_of_rest {s : State} (n : Nat) (hlegal : s.cause ≠ .illegalCommand) (halone : s.engineOnly) (hst : s.st ≠ .running) :
    steps n s = s := by
  induction n with
  | zero => rfl
  | succ n ih => rw [steps_succ, stepOrStay_of_step (step_of_rest hlegal halone hst), ih]

/-- The engine alone keeps a legal state legal, and its job. -/
theorem steps_of_engineOnly (n : Nat) {s : State} (hs : s.Inv) (halone : s.engineOnly) :
    (steps n s).Inv ∧ (steps n s).engineOnly ∧ (steps n s).job = s.job := by
  induction n generalizing s with
  | zero => exact ⟨hs, halone, rfl⟩
  | succ n ih =>
    obtain ⟨-, hsT, haloneT, hjobT⟩ := stepOrStay_of_engineOnly hs halone
    obtain ⟨hsN, haloneN, hjobN⟩ := ih hsT haloneT
    exact ⟨hsN, haloneN, hjobN.trans hjobT⟩

/-- A job that has ended after `n` steps and after `m` steps has ended in one and the same state. -/
theorem steps_eq_of_rest {s : State} {n m : Nat} (hs : s.Inv) (halone : s.engineOnly) (hn : (steps n s).st ≠ .running)
    (hm : (steps m s).st ≠ .running) : steps m s = steps n s := by
  wlog hle : n ≤ m generalizing n m
  · exact (this hm hn (Nat.le_of_not_le hle)).symm
  obtain ⟨k, rfl⟩ := Nat.exists_eq_add_of_le hle
  obtain ⟨hsN, haloneN, -⟩ := steps_of_engineOnly n hs halone
  rw [steps_add, steps_of_rest k hsN.legal haloneN hn]

/-- A running XD job is in the XD phase, with CAP inside the buffer (R182, R189). -/
theorem State.Inv.xd_of_jobXd {s : State} (hs : s.Inv) (hrun : s.st = .running) (hjob : s.job = jobXd) :
    s.phase = .xd ∧ s.cap.toNat ≤ s.params.bufSize := by
  obtain ⟨-, -, -, hrunning⟩ := hs
  obtain ⟨-, hxd, hcap, -⟩ := hrunning hrun
  exact ⟨hxd hjob, hcap⟩

theorem State.FrmDiffersBy.stepOrStay {s s' : State} {d : Nat → Byte} (h : s.FrmDiffersBy s' d) (hs : s.Inv)
    (halone : s.engineOnly) (hjob : s.job = jobXd) : (stepOrStay s).FrmDiffersBy (Machine.stepOrStay s') d := by
  by_cases hrun : s.st = .running
  · obtain ⟨hphase, hcap⟩ := hs.xd_of_jobXd hrun hjob
    have hturn := hs.codecTurn halone hrun (by rw [hjob]; decide)
    obtain ⟨hstep, -⟩ := stepOrStay_of_engineOnly hs halone
    obtain ⟨t', hstep', ht'⟩ := h.step halone hturn hphase hcap hstep
    rwa [stepOrStay_of_step hstep']
  · rw [stepOrStay_of_step (step_of_rest hs.legal halone hrun)]
    obtain ⟨⟨rel, frm, rfl⟩, hd⟩ := h
    rw [stepOrStay_of_step (step_of_rest (by exact hs.legal) (by exact halone) (by exact hrun))]
    exact ⟨⟨rel, frm, rfl⟩, hd⟩

theorem State.FrmDiffersBy.steps (n : Nat) {s s' : State} {d : Nat → Byte} (h : s.FrmDiffersBy s' d) (hs : s.Inv)
    (halone : s.engineOnly) (hjob : s.job = jobXd) : (steps n s).FrmDiffersBy (Machine.steps n s') d := by
  induction n generalizing s s' with
  | zero => exact h
  | succ n ih =>
    obtain ⟨-, hsT, haloneT, hjobT⟩ := stepOrStay_of_engineOnly hs halone
    exact ih (h.stepOrStay hs halone hjob) hsT haloneT (hjobT.trans hjob)

/-- What a run of an XD job changes: the cursors, FRM, STATE and CAUSE (R141). -/
def XdRunFrame (s t : State) : Prop :=
  t = { s with sp := t.sp, dp := t.dp, frm := t.frm, st := t.st, cause := t.cause }

theorem XdRunFrame.trans {s t u : State} (h : XdRunFrame s t) (h' : XdRunFrame t u) : XdRunFrame s u := by
  rw [XdRunFrame, h] at h'
  exact h'

theorem XdFrame.xdRunFrame {s t : State} (h : XdFrame s t) (hturns : s.turns = t.turns) : XdRunFrame s t := by
  obtain ⟨hkept, -, -⟩ := h
  rw [hturns] at hkept
  rw [XdRunFrame, ← hkept]

theorem xdRunFrame_stepOrStay {s : State} (hs : s.Inv) (halone : s.engineOnly) (hjob : s.job = jobXd) :
    XdRunFrame s (stepOrStay s) := by
  by_cases hrun : s.st = .running
  · obtain ⟨hphase, -⟩ := hs.xd_of_jobXd hrun hjob
    obtain ⟨hstep, -, haloneT, -⟩ := stepOrStay_of_engineOnly hs halone
    have hframe : XdFrame s (stepOrStay s) :=
      xdStepFrame s _ hs (hs.codecTurn halone hrun (by rw [hjob]; decide)) hphase hstep
    exact hframe.xdRunFrame (Eq.trans halone haloneT.symm)
  · rw [stepOrStay_of_step (step_of_rest hs.legal halone hrun)]
    rfl

theorem xdRunFrame_steps (n : Nat) {s : State} (hs : s.Inv) (halone : s.engineOnly) (hjob : s.job = jobXd) :
    XdRunFrame s (steps n s) := by
  induction n generalizing s with
  | zero => rfl
  | succ n ih =>
    obtain ⟨-, hsT, haloneT, hjobT⟩ := stepOrStay_of_engineOnly hs halone
    exact (xdRunFrame_stepOrStay hs halone hjob).trans (ih hsT haloneT (hjobT.trans hjob))

/-! ### The second start -/

/-- An XD job that runs passed the test of R189. -/
theorem State.configBad_of_justStarted {s : State} (h : s.justStarted jobXd) : s.configBad .xd = false := by
  obtain ⟨⟨-, -, -, hrunning⟩, -, hrun, hjob, -, -, hphase⟩ := h
  replace hphase : s.phase = .xd := hphase
  obtain ⟨-, -, hcap, -, -, hsize⟩ := hrunning hrun
  have hscr : s.scrLen.toNat ≤ s.params.bufSize := by
    have := hsize (by rw [hjob]; decide)
    rwa [State.inLen_of_xd hphase, hphase] at this
  rw [← Bool.not_eq_true, State.configBad_iff]
  simp [hcap, hscr]

/-- Started again after its end, an XD job stands where it first started, but for REL and FRM (R180, R182, R184). -/
theorem restart_of_xdRun {s u t : State} {rel : Bool} (h : s.justStarted jobXd) (hkept : XdRunFrame s u) (hdone : u.st = .done)
    (hstart : exec (.ctrlStartXd rel) u = .next t) : t = { s with rel := rel, frm := u.frm } := by
  have hfits : State.configBad { u with rel := rel } .xd = false := by
    have hsame : State.configBad { u with rel := rel } .xd = s.configBad .xd := by
      rw [hkept]
      rfl
    exact hsame.trans (State.configBad_of_justStarted h)
  have hstarted : t = { State.newJob { u with rel := rel } jobXd .xd with st := .running } := by
    injection hstart with ht
    obtain ⟨hrun, -⟩ | ⟨-, htaken⟩ := u.ctrlOperation_cases rel (fun v => v.start .xd)
    · rw [hdone] at hrun
      cases hrun
    · obtain ⟨hbad, -⟩ | ⟨-, hnew⟩ := State.start_cases { u with rel := rel } .xd
      · rw [hfits] at hbad
        cases hbad
      · exact ht.symm.trans (htaken.trans hnew)
  obtain ⟨⟨-, -, hstatus, -⟩, -, hrun, hjob, hsp, hdp, hphase⟩ := h
  replace hphase : s.phase = .xd := hphase
  obtain ⟨hcause, -, -, hfullJob⟩ := (State.statusOk_iff_of_running hrun).mp hstatus
  have hfull : s.full = false := Bool.eq_false_iff.mpr fun htrue => by
    obtain ⟨hframe, -⟩ := hfullJob htrue
    rw [hjob] at hframe
    exact absurd hframe (by decide)
  rw [hstarted, hkept]
  simp only [State.newJob, hrun, hphase, hfull, hjob, hcause, hsp, hdp]

/-- What a run from `s` to `u` has XOR-ed into each byte of FRM. -/
def State.frmChange (s u : State) (a : Nat) : Byte := s.peek .frm a ^^^ u.peek .frm a

theorem State.peek_xor_frmChange (s u : State) (a : Nat) : s.peek .frm a ^^^ s.frmChange u a = u.peek .frm a := by
  rw [State.frmChange, ← BitVec.xor_assoc, BitVec.xor_self, BitVec.zero_xor]

theorem State.frmChange_comm (s u : State) (a : Nat) : s.frmChange u a = u.frmChange s a := BitVec.xor_comm _ _

/-- At its second start an XD job's frame differs from that of the first start by what the first run changed. -/
theorem frmDiffersBy_restart {s u t : State} {rel : Bool} (h : s.justStarted jobXd) (hkept : XdRunFrame s u) (hdone : u.st = .done)
    (hstart : exec (.ctrlStartXd rel) u = .next t) : s.FrmDiffersBy t (s.frmChange u) := by
  have ht := restart_of_xdRun h hkept hdone hstart
  have hboot : t.boot = u.boot := by rw [ht, hkept]
  have hframe (a : Nat) : t.peek .frm a = u.peek .frm a := State.peek_congr (by rw [ht]; rfl) hboot a
  exact ⟨⟨_, _, ht⟩, fun a => (hframe a).trans (s.peek_xor_frmChange u a).symm⟩

/-- Settles O58: the second run goes as the first one does, and its frame stays apart from the first one's by what the first changed. -/
theorem patchAppliedTwiceRestoresTheFrame : Obligations.PatchAppliedTwiceRestoresTheFrame := by
  intro s t n m rel hstart hn hexec hm a
  obtain ⟨hs, halone, -, hjob, -⟩ := id hstart
  have hdiffers := frmDiffersBy_restart hstart (xdRunFrame_steps n hs halone hjob) hn hexec
  obtain ⟨⟨_, _, hsame⟩, hbytes⟩ := hdiffers.steps m hs halone hjob
  have hdone : (steps m s).st = .done := by
    rw [hsame] at hm
    exact hm
  have hend : steps m s = steps n s := steps_eq_of_rest hs halone (by rw [hn]; decide) (by rw [hdone]; decide)
  rw [hbytes, hend, State.frmChange_comm, State.peek_xor_frmChange]

end Sys2Proof.Machine

/-!
PROOFS. Progress, the control operations, and the engine's turns that run no command: the rest, the CLEAR step, and the fault that holds
until a job starts (42_control.md R180 to R191; 60_exceptions.md R207; the spec's inference R65).
-/

namespace Sys2Proof.Machine

/-! ### Progress -/

/-- Every reachable state is legal, whatever turns the outside queues between the steps (R20, R240). -/
theorem Reachable.inv {s : State} (h : Reachable s) : s.Inv := by
  induction h with
  | reset p hp => exact State.resetWith_inv hp
  | arrive s ts _ ih => exact ih
  | step s t _ hstep ih => exact State.inv_of_step ih hstep

/-- Settles O4: a legal state completes, and a reachable state is legal. -/
theorem reachableStatesNeverStop : Obligations.ReachableStatesNeverStop :=
  ⟨fun _ hs => hs.completes, fun _ hreach => hreach.inv.completes⟩

/-! ### The control operations -/

theorem State.ctrlOperation_of_not_running {s : State} (hst : s.st ≠ .running) (rel : Bool) (perform : State → State) :
    s.ctrlOperation rel perform = perform { s with rel := rel } := if_neg hst

/-- The control operation that starts a job (R183 to R186). -/
def Op.instr (rel : Bool) : Op → Instr
  | .lcw => .ctrlStartLcw rel
  | .xd => .ctrlStartXd rel
  | .frame => .ctrlStartFrame rel
  | .clear => .ctrlClearFrm rel

theorem exec_start {s : State} (hst : s.st ≠ .running) (rel : Bool) (op : Op) :
    exec (op.instr rel) s = .next (State.start { s with rel := rel } op) := by
  cases op <;> exact congrArg Host.Outcome.next (s.ctrlOperation_of_not_running hst rel _)

/-- R189's test passes where CAP and the input the job reads fit the memories. -/
theorem State.not_configBad {s : State} {op : Op} (hcap : s.cap.toNat ≤ s.params.bufSize)
    (hsrc : op = .lcw ∨ op = .frame → s.srcLen.toNat ≤ s.params.srcSize) (hscr : op = .xd → s.scrLen.toNat ≤ s.params.bufSize) :
    ¬ s.configBad op = true := by
  rw [State.configBad_iff]
  rintro (hbad | ⟨hop, hbad⟩ | ⟨hop, hbad⟩)
  · exact Nat.not_lt_of_le hcap hbad
  · exact Nat.not_lt_of_le (hsrc hop) hbad
  · exact Nat.not_lt_of_le (hscr hop) hbad

/-- With sizes that fit a start runs its job (R182, R189). -/
theorem exec_start_of_fits {s : State} (hst : s.st ≠ .running) (rel : Bool) {op : Op} (hfits : ¬ s.configBad op = true) :
    exec (op.instr rel) s = .next { State.newJob { s with rel := rel } op.code op.phase with st := .running } := by
  rw [exec_start hst]
  exact congrArg Host.Outcome.next (if_neg hfits)

/-- With sizes beyond the memories a start faults CONFIG (R182, R189). -/
theorem exec_start_of_configBad {s : State} (hst : s.st ≠ .running) (rel : Bool) {op : Op} (hbad : s.configBad op = true) :
    exec (op.instr rel) s = .next ((State.newJob { s with rel := rel } op.code op.phase).raise .config) := by
  rw [exec_start hst]
  exact congrArg Host.Outcome.next (if_pos hbad)

theorem exec_reserved {s : State} (hst : s.st ≠ .running) (k : BitVec 3) (rel : Bool) :
    exec (.ctrlReserved k rel) s = .next (State.reserved { s with rel := rel } k) :=
  congrArg Host.Outcome.next (s.ctrlOperation_of_not_running hst rel _)

/-- Settles O39. -/
theorem nopWritesOnlyRel : Obligations.NopWritesOnlyRel :=
  fun rel s hst => congrArg Host.Outcome.next (s.ctrlOperation_of_not_running hst rel _)

/-- Settles O40: no clause of R189's test holds. -/
theorem startsRunTheirJobs : Obligations.StartsRunTheirJobs := by
  intro rel s hst hcap
  exact ⟨fun hsrc => exec_start_of_fits hst rel (op := .lcw) (State.not_configBad hcap (fun _ => hsrc) (by simp)),
    fun hscr => exec_start_of_fits hst rel (op := .xd) (State.not_configBad hcap (by simp) fun _ => hscr),
    fun hsrc => exec_start_of_fits hst rel (op := .frame) (State.not_configBad hcap (fun _ => hsrc) (by simp)),
    exec_start_of_fits hst rel (op := .clear) (State.not_configBad hcap (by simp) (by simp))⟩

/-- Settles O41: each clause is one of R189's test. -/
theorem startsFaultOnBadConfigurations : Obligations.StartsFaultOnBadConfigurations := by
  intro rel s hst
  refine ⟨fun hbad => exec_start_of_configBad hst rel (op := .lcw) ?_, fun hbad => exec_start_of_configBad hst rel (op := .xd) ?_,
    fun hbad => exec_start_of_configBad hst rel (op := .frame) ?_, fun hbad => exec_start_of_configBad hst rel (op := .clear) ?_⟩ <;>
  · rw [State.configBad_iff]
    simpa using hbad

/-- Settles O42: the words of OP 7 are those of the fields it leaves. -/
theorem reservedOperationsFaultConfig : Obligations.ReservedOperationsFaultConfig := by
  refine ⟨fun k rel s hst => exec_reserved hst k rel, fun rel s t hst hexec => ?_⟩
  rw [exec_reserved hst] at hexec
  injection hexec with ht
  subst ht
  exact ⟨BitVec.eq_of_toNat_eq (State.toNat_statusWord _), BitVec.eq_of_toNat_eq (State.toNat_causeWord _)⟩

/-! ### The engine's turns that run no command -/

/-- Settles O21. -/
theorem engineRestsUnlessRunning : Obligations.EngineRestsUnlessRunning := by
  intro s hlegal hturn hst
  rw [step_of_engineTurn hlegal hturn, State.engineAction, if_pos (by exact hst)]
  rfl

theorem step_of_clearTurn {s : State} (hlegal : s.cause ≠ .illegalCommand) (hturn : s.nextTurn = .engine) (hrun : s.st = .running)
    (hjob : s.job = jobClear) : step s = s.popTurn.clearStep := by
  have hact : s.popTurn.engineAction = .effect s.popTurn.clearStep := by simp [State.engineAction, hrun, hjob]
  rw [step_of_engineTurn hlegal hturn, hact]
  rfl

/-- Settles O20: the store of CAP zeros from address 0, byte by byte. -/
theorem clearStepZeroesTheFrame : Obligations.ClearStepZeroesTheFrame := by
  intro s hlegal hturn hrun hjob hcap
  have hread (a : Nat) : (s.frm.store (List.replicate s.cap.toNat 0x00#8) 0).read (s.draw .frm) a
      = if a < s.cap.toNat then 0x00#8 else s.peek .frm a := by
    rw [Memory.read_store, List.length_replicate, Nat.zero_add, Nat.sub_zero]
    by_cases ha : a < s.cap.toNat
    · rw [if_pos ⟨Nat.zero_le a, ha⟩, if_pos ha, List.getD_replicate _ ha]
    · rw [if_neg (fun hin => ha hin.2), if_neg ha]
      rfl
  refine ⟨_, (step_of_clearTurn hlegal hturn hrun hjob).trans (if_neg (Nat.not_lt_of_le hcap)), fun a ha => ?_,
    State.onlyWrote_frm rfl rfl rfl fun b hb => ?_, rfl⟩
  · exact (hread a).trans (if_pos ha)
  · exact (hread b).trans (if_neg (by omega))

/-! ### A fault holds -/

/-- A start leaves a fault of its own, or its job runs with the last outcome cleared (R182, R189). -/
theorem State.start_outcome (s : State) (op : Op) :
    (s.start op).st = .fault
    ∨ (s.start op).st = .running ∧ (s.start op).cause = .none ∧ (s.start op).sp = 0#32 ∧ (s.start op).dp = 0#32 := by
  obtain ⟨-, ht⟩ | ⟨-, ht⟩ := s.start_cases op <;> rw [ht]
  · exact .inl rfl
  · exact .inr ⟨rfl, rfl, rfl, rfl⟩

/-- A value whose OP is not from 1 to 4 is CTRL.NOP or a reserved operation; any other starts a job (R90, R180). -/
theorem decodeCtrl_cases (x : Word) :
    (1 ≤ (x.extractLsb' 0 3).toNat ∧ (x.extractLsb' 0 3).toNat ≤ 4 ∧ ∃ op : Op, decodeCtrl x = op.instr (x.getLsbD 8))
    ∨ decodeCtrl x = .ctrlNop (x.getLsbD 8)
    ∨ ∃ k, decodeCtrl x = .ctrlReserved k (x.getLsbD 8) := by
  unfold decodeCtrl
  dsimp only
  split_ifs with hnop hlcw hxd hframe hclear
  · exact .inr (.inl rfl)
  · exact .inl ⟨by simp [hlcw], by simp [hlcw], .lcw, rfl⟩
  · exact .inl ⟨by simp [hxd], by simp [hxd], .xd, rfl⟩
  · exact .inl ⟨by simp [hframe], by simp [hframe], .frame, rfl⟩
  · exact .inl ⟨by simp [hclear], by simp [hclear], .clear, rfl⟩
  · exact .inr (.inr ⟨_, rfl⟩)

/-- A CTRL write to a faulted block leaves it faulted, or is a start whose job runs (R207). -/
theorem exec_decodeCtrl_of_fault {s t : State} {x : Word} (hst : s.st = .fault) (h : exec (decodeCtrl x) s = .next t) :
    t.st = .fault
    ∨ (1 ≤ (x.extractLsb' 0 3).toNat ∧ (x.extractLsb' 0 3).toNat ≤ 4
        ∧ t.st = .running ∧ t.cause = .none ∧ t.sp = 0#32 ∧ t.dp = 0#32) := by
  have hrest : s.st ≠ .running := by rw [hst]; decide
  obtain ⟨hlo, hhi, op, hop⟩ | hnop | ⟨k, hk⟩ := decodeCtrl_cases x
  · rw [hop, exec_start hrest] at h
    injection h with ht
    subst ht
    exact (State.start_outcome _ op).imp_right fun hrun => ⟨hlo, hhi, hrun⟩
  · rw [hnop, nopWritesOnlyRel _ s hrest] at h
    injection h with ht
    subst ht
    exact .inl hst
  · rw [hk, exec_reserved hrest] at h
    injection h with ht
    subst ht
    exact .inl rfl

/-- Of the host's moves only a CTRL write can take a block out of FAULT. -/
theorem HostMove.fault_or_ctrlWrite {s t : State} {a : HostAction} (h : HostMove s a t) (hst : s.st = .fault) :
    t.st = .fault ∨ ∃ x, a = .regWrite 0x00#6 x := by
  cases h with
  | ignored | answers | storesCap | storesSrcLen | storesScrLen => exact .inl hst
  | pokes => exact .inl (by simpa [State.poke] using hst)
  | storesRel _ x ha | starts _ x ha | reserves _ x ha => exact .inr ⟨x, ha⟩

/-- Settles O38, turn by turn. -/
theorem faultHoldsUntilAJobStarts : Obligations.FaultHoldsUntilAJobStarts := by
  intro s t hst hstep
  obtain ⟨hturn, -⟩ | ⟨-, -, rfl⟩ | ⟨-, hrun, -⟩ | ⟨a, hturn, hmove⟩ := step_moves hstep
  · exact .inr (.inl hturn)
  · exact .inl hst
  · rw [hst] at hrun
    cases hrun
  · obtain hfault | ⟨x, rfl⟩ := hmove.fault_or_ctrlWrite hst
    · exact .inl hfault
    · rw [step_of_legal (legal_of_step hstep), hturn] at hstep
      exact (exec_decodeCtrl_of_fault (s := s.popTurn) hst hstep).imp_right fun hstarted => .inr ⟨x, hturn, hstarted⟩

end Sys2Proof.Machine

/-!
PROOFS. A FRAME job is an LCW job and then an XD job (the spec's inference R193 from 42_control.md R183 to R188): the engine reads JOB
only where an LCW phase ends, and FULL nowhere, so the FRAME run is the LCW run under another JOB up to that end, and from there the XD
run under another JOB and FULL.
-/

namespace Sys2Proof.Machine

/-! ### The state under another JOB and FULL -/

/-- The state under another JOB and FULL. -/
def State.withJob (s : State) (job : BitVec 3) (full : Bool) : State := { s with job := job, full := full }

/-- An outcome with its state under another JOB and FULL. -/
def outcomeWithJob (job : BitVec 3) (full : Bool) : Result → Result
  | .next t => .next (t.withJob job full)
  | .fault r => .fault r
  | .refused r => .refused r

section
variable (s : State) (job : BitVec 3) (full : Bool)

theorem State.lcwCommand_withJob (len count : Nat) (source : Option Int) (write : Memory → Memory) :
    (s.withJob job full).lcwCommand len count source write = outcomeWithJob job full (s.lcwCommand len count source write) := by
  unfold State.lcwCommand
  simp only [apply_ite (outcomeWithJob job full)]
  rfl

theorem State.xdUpdate_withJob (len : Nat) (us : List Byte) :
    (s.withJob job full).xdUpdate len us = outcomeWithJob job full (s.xdUpdate len us) := by
  unfold State.xdUpdate
  simp only [apply_ite (outcomeWithJob job full)]
  rfl

theorem State.xdSkip_withJob (len count : Nat) :
    (s.withJob job full).xdSkip len count = outcomeWithJob job full (s.xdSkip len count) := by
  unfold State.xdSkip
  simp only [apply_ite (outcomeWithJob job full)]
  rfl

/-- But for LCW.END a command reads neither JOB nor FULL and leaves them (R101, R141). -/
theorem exec_withJob {i : Instr} (hmode : i.mode ≠ .ctrl) (hend : i ≠ .lcwEnd) :
    exec i (s.withJob job full) = outcomeWithJob job full (exec i s) := by
  cases i with
  | lcwRel | lcwLit | lcwAbs | lcwFill | lcwAbsl => exact s.lcwCommand_withJob job full _ _ _ _
  | lcwEnd => exact absurd rfl hend
  | xdFill | xdXor | xdXorl | xdFilll => exact s.xdUpdate_withJob job full _ _
  | xdSkip | xdSkipl => exact s.xdSkip_withJob job full _ _
  | xdEnd => rfl
  | _ => exact absurd rfl hmode

theorem State.fetch_withJob (hend : ∀ rest, decode s.fetchCode ≠ .command .lcwEnd rest) :
    (s.withJob job full).fetch.outcome (s.withJob job full) = outcomeWithJob job full (s.fetch.outcome s) := by
  have hcode : (s.withJob job full).fetchCode = s.fetchCode := rfl
  unfold State.fetch
  rw [hcode]
  cases hdec : decode s.fetchCode with
  | command i rest =>
    obtain ⟨hmode, -⟩ := State.fetched_within hdec
    exact exec_withJob s job full (hmode ▸ s.phase.mode_ne_ctrl) fun hi => hend rest (hi ▸ hdec)
  | inputOverrun =>
    dsimp only
    rw [apply_ite (Action.outcome s), apply_ite (outcomeWithJob job full), apply_ite (Action.outcome _)]
    rfl

end

/-- The XD phase fetches no LCW.END. -/
theorem State.fetch_ne_lcwEnd {s : State} (hphase : s.phase = .xd) (rest : List Byte) :
    decode s.fetchCode ≠ .command .lcwEnd rest := by
  intro hdec
  obtain ⟨hmode, -⟩ := State.fetched_within hdec
  rw [hphase] at hmode
  cases hmode

/-- A codec's step that does not end an LCW phase is the same under any other JOB of a codec. -/
theorem step_withJob {s t : State} {job : BitVec 3} (full : Bool) (hturn : s.codecTurn) (hjob : job ≠ jobClear)
    (hroom : s.phase = .lcw → s.dp ≠ s.cap) (hend : ∀ rest, decode s.fetchCode ≠ .command .lcwEnd rest) (hstep : step s = .next t) :
    step (s.withJob job full) = .next (t.withJob job full) := by
  obtain ⟨hlegal, hengine, hrun, -⟩ := id hturn
  have hturnJ : (s.withJob job full).codecTurn := ⟨hlegal, hengine, hrun, hjob⟩
  rw [step_eq_fetch hturn hroom] at hstep
  rw [step_eq_fetch hturnJ hroom]
  exact (s.popTurn.fetch_withJob job full hend).trans (congrArg (outcomeWithJob job full) hstep)

/-! ### The XD phase -/

theorem stepOrStay_withJob {s : State} (hs : s.Inv) (halone : s.engineOnly) (hjob : s.job = jobXd) (full : Bool) :
    stepOrStay (s.withJob jobFrame full) = (stepOrStay s).withJob jobFrame full := by
  by_cases hrun : s.st = .running
  · obtain ⟨hphase, -⟩ := hs.xd_of_jobXd hrun hjob
    obtain ⟨hstep, -⟩ := stepOrStay_of_engineOnly hs halone
    have hturn := hs.codecTurn halone hrun (by rw [hjob]; decide)
    exact stepOrStay_of_step (step_withJob full hturn (by decide) (fun hlcw => by rw [hphase] at hlcw; cases hlcw)
      (State.fetch_ne_lcwEnd hphase) hstep)
  · rw [stepOrStay_of_step (step_of_rest hs.legal halone hrun)]
    exact stepOrStay_of_step (step_of_rest (s := s.withJob jobFrame full) hs.legal halone hrun)

/-- An XD job's run is that of a FRAME job's XD phase. -/
theorem steps_withJob (n : Nat) {s : State} (hs : s.Inv) (halone : s.engineOnly) (hjob : s.job = jobXd) (full : Bool) :
    steps n (s.withJob jobFrame full) = (steps n s).withJob jobFrame full := by
  induction n generalizing s with
  | zero => rfl
  | succ n ih =>
    obtain ⟨-, hsT, haloneT, hjobT⟩ := stepOrStay_of_engineOnly hs halone
    rw [steps_succ, steps_succ, stepOrStay_withJob hs halone hjob]
    exact ih hsT haloneT (hjobT.trans hjob)

/-! ### The LCW phase and its end -/

/-- The LCW phase ends in the coming step: its buffer is full, or LCW.END stands at SP (R100, R105). -/
def State.EndsLcw (s : State) : Prop := s.dp = s.cap ∨ ∃ rest, decode s.fetchCode = .command .lcwEnd rest

section
variable {s t : State}

/-- The step that ends an LCW phase is LcwTerminate under either JOB; `u` is `s`, or has SP past LCW.END. -/
theorem lcwTerminates_of_endsLcw (halone : s.engineOnly) (hturn : s.codecTurn) (hphase : s.phase = .lcw) (hends : s.EndsLcw) :
    ∃ (u : State) (full : Bool), u = { s with sp := u.sp } ∧ step s = .next (u.lcwTerminate full)
      ∧ step (s.withJob jobFrame false) = .next ((u.withJob jobFrame false).lcwTerminate full) := by
  obtain ⟨hlegal, hengine, hrun, -⟩ := id hturn
  have hframe : jobFrame ≠ jobClear := by decide
  have hturnJ : (s.withJob jobFrame false).codecTurn := ⟨hlegal, hengine, hrun, hframe⟩
  have hpop : s.popTurn = s := State.popTurn_of_engineOnly halone
  have hpopJ : (s.withJob jobFrame false).popTurn = s.withJob jobFrame false := State.popTurn_of_engineOnly halone
  by_cases hfull : s.dp = s.cap
  · exact ⟨s, true, rfl, by rw [step_of_lcwFull hturn hphase hfull, hpop],
      by rw [step_of_lcwFull hturnJ hphase hfull, hpopJ]⟩
  · obtain ⟨rest, hdec⟩ := hends.resolve_left hfull
    have hroom : s.phase = .lcw → s.dp ≠ s.cap := fun _ => hfull
    refine ⟨s.advance 1 0, false, by simp [State.advance], ?_, ?_⟩
    · rw [step_eq_exec_of_decode hturn hroom hdec, hpop, exec_lcwEnd]
    · rw [step_eq_exec_of_decode hturnJ hroom hdec, hpopJ, exec_lcwEnd]
      rfl

/-- Any other step of an LCW phase does not complete the job, and leaves FRM and REL (R101). -/
theorem lcwStep_of_not_endsLcw (halone : s.engineOnly) (hturn : s.codecTurn) (hphase : s.phase = .lcw) (hends : ¬ s.EndsLcw)
    (hstep : step s = .next t) : t.st ≠ .done ∧ t.frm = s.frm ∧ t.rel = s.rel := by
  obtain ⟨-, -, hrun, -⟩ := id hturn
  obtain ⟨hfull, hend⟩ := not_or.mp hends
  rw [step_eq_fetch hturn (fun _ => hfull), State.popTurn_of_engineOnly halone] at hstep
  obtain ⟨i, rest, hdec, hact⟩ | ⟨-, -, hact⟩ | ⟨-, -, hact⟩ := s.fetch_cases <;> rw [hact] at hstep
  · obtain ⟨hmode, -⟩ := State.fetched_within hdec
    rw [hphase] at hmode
    obtain ⟨rfl, -⟩ | ⟨f, rfl⟩ | ⟨-, rfl⟩ := exec_lcw_cases hmode hstep
    · exact absurd ⟨rest, hdec⟩ hend
    · exact ⟨by simp, rfl, rfl⟩
    · exact ⟨by simp [State.lcwWritten, hrun], rfl, rfl⟩
  · cases hstep
  · injection hstep with ht
    subst ht
    exact ⟨by simp, rfl, rfl⟩

end

theorem State.inv_start {s : State} (hs : s.Inv) (op : Op) : (s.start op).Inv := by
  obtain ⟨hparams, hmem, -, -⟩ := hs
  exact ⟨by simpa using hparams, by simpa [State.memoriesWf] using hmem, s.statusOk_start op, s.runningOk_start op⟩

theorem State.engineOnly_start {s : State} (halone : s.engineOnly) (op : Op) : (s.start op).engineOnly :=
  (s.start_turns op).trans halone

/-- Where an LCW phase ends, a FRAME job passes to the state in which the XD job started after the LCW job begins (R113, R182, R188). -/
theorem xdStart_of_lcwTerminate {s u : State} (hs : s.Inv) (hrun : s.st = .running) (hjob : s.job = jobLcw)
    (hu : u = { s with sp := u.sp }) (full : Bool) :
    (u.lcwTerminate full).st = .done
    ∧ (u.withJob jobFrame false).lcwTerminate full = ((u.lcwTerminate full).start .xd).withJob jobFrame full := by
  obtain ⟨-, -, hstatus, hrunning⟩ := hs
  obtain ⟨hcause, -⟩ := (State.statusOk_iff_of_running hrun).mp hstatus
  obtain ⟨-, -, hcap, hdp, -⟩ := hrunning hrun
  have hcauseU : u.cause = .none := by rw [hu, hcause]
  have hrunU : u.st = .running := by rw [hu, hrun]
  have hjobU : u.job ≠ jobFrame := by rw [hu, hjob]; decide
  have hdone : u.lcwTerminate full = { u with scrLen := u.dp, full := full, st := .done } := if_neg hjobU
  have hpass : (u.withJob jobFrame false).lcwTerminate full
      = { u with job := jobFrame, scrLen := u.dp, full := full, phase := .xd, sp := 0#32, dp := 0#32 } :=
    (State.lcwTerminate_eq _ _).trans (if_pos rfl)
  have hfits : ¬ State.configBad { u with scrLen := u.dp, full := full, st := .done } .xd = true := by
    rw [hu]
    exact State.not_configBad hcap (by simp) fun _ => hdp.trans hcap
  refine ⟨by rw [hdone], ?_⟩
  rw [hdone, hpass, State.start, if_neg hfits]
  simp only [State.withJob, State.newJob, hcauseU, hrunU]
  rfl

/-! ### Whole runs -/

/-- The FRAME run at `f` beside the LCW run at `l`: the same state until the LCW job is done, and then the run of the XD job started
after it. `frm` is FRM at the start. -/
def FrameBeside (rel : Bool) (frm : Memory) (l f : State) : Prop :=
  (l.st ≠ .done ∧ l.frm = frm ∧ f = l.withJob jobFrame false)
  ∨ (l.st = .done ∧ ∃ x j full, exec (.ctrlStartXd rel) l = .next x ∧ f = (steps j x).withJob jobFrame full)

/-- The LCW job done, it rests, and the FRAME job goes on as the XD job. -/
theorem frameBeside_of_endsLcw (n : Nat) {l : State} (hs : l.Inv) (halone : l.engineOnly) (hjob : l.job = jobLcw)
    (hrun : l.st = .running) (hends : l.EndsLcw) :
    FrameBeside l.rel l.frm (steps n (stepOrStay l)) (steps n (stepOrStay (l.withJob jobFrame false))) := by
  obtain ⟨-, hsT, haloneT, -⟩ := stepOrStay_of_engineOnly hs halone
  have hturn := hs.codecTurn halone hrun (by rw [hjob]; decide)
  obtain ⟨u, full, hu, hend, hendJ⟩ := lcwTerminates_of_endsLcw halone hturn (hs.lcw_of_jobLcw hjob) hends
  obtain ⟨hdone, hpass⟩ := xdStart_of_lcwTerminate hs hrun hjob hu full
  have ht := stepOrStay_of_step hend
  rw [← ht] at hdone hpass
  have hrest : (stepOrStay l).st ≠ .running := by rw [hdone]; decide
  have hrel : (stepOrStay l).rel = l.rel := by rw [ht, State.lcwTerminate_rel, hu]
  rw [stepOrStay_of_step hendJ, hpass, steps_of_rest n hsT.legal haloneT hrest, ← hrel,
    steps_withJob n (State.inv_start hsT .xd) (State.engineOnly_start haloneT .xd) (State.start_job _ .xd)]
  exact .inr ⟨hdone, _, n, full, exec_start hrest _ .xd, rfl⟩

/-- Step by step the two runs stay side by side. -/
theorem frameBeside_steps (n : Nat) {l : State} (hs : l.Inv) (halone : l.engineOnly) (hjob : l.job = jobLcw) (hst : l.st ≠ .done) :
    FrameBeside l.rel l.frm (steps n l) (steps n (l.withJob jobFrame false)) := by
  induction n generalizing l with
  | zero => exact .inl ⟨hst, rfl, rfl⟩
  | succ n ih =>
    by_cases hrun : l.st = .running
    · rw [steps_succ, steps_succ]
      by_cases hends : l.EndsLcw
      · exact frameBeside_of_endsLcw n hs halone hjob hrun hends
      · obtain ⟨hstep, hsT, haloneT, hjobT⟩ := stepOrStay_of_engineOnly hs halone
        have hturn := hs.codecTurn halone hrun (by rw [hjob]; decide)
        obtain ⟨hstT, hfrm, hrel⟩ := lcwStep_of_not_endsLcw halone hturn (hs.lcw_of_jobLcw hjob) hends hstep
        obtain ⟨hfull, hend⟩ := not_or.mp hends
        have hstepJ := step_withJob false hturn (job := jobFrame) (by decide) (fun _ => hfull) (not_exists.mp hend) hstep
        rw [stepOrStay_of_step hstepJ, ← hfrm, ← hrel]
        exact ih hsT haloneT (hjobT.trans hjob) hstT
    · rw [steps_of_rest _ hs.legal halone hrun, steps_of_rest (s := l.withJob jobFrame false) _ hs.legal halone hrun]
      exact .inl ⟨hst, rfl, rfl⟩

/-- A FRAME job starts as the LCW job does, but for JOB (R183, R185, R189). -/
theorem State.start_frame (s : State) : s.start .frame = (s.start .lcw).withJob jobFrame false := by
  have hbad : s.configBad .frame = s.configBad .lcw := rfl
  unfold State.start
  rw [hbad]
  split_ifs <;> rfl

theorem State.start_ne_done (s : State) (op : Op) : (s.start op).st ≠ .done := by
  obtain h | ⟨h, -⟩ := s.start_outcome op <;> simp [h]

/-- Settles O59: the FRAME run beside the LCW run, at the step where the FRAME job has ended. -/
theorem frameIsLcwThenXd : Obligations.FrameIsLcwThenXd := by
  intro s f rel n hs halone hst hframe hended
  have hl := exec_start hst rel .lcw
  have hsL : (State.start { s with rel := rel } .lcw).Inv := State.inv_start (s := { s with rel := rel }) hs .lcw
  obtain rfl : State.start { s with rel := rel } .frame = f := by
    injection (exec_start hst rel .frame).symm.trans hframe
  have haloneL := State.engineOnly_start (s := { s with rel := rel }) halone .lcw
  have hbeside := frameBeside_steps n hsL haloneL (State.start_job _ .lcw) (State.start_ne_done _ .lcw)
  rw [← State.start_frame, State.start_rel, State.start_frm] at hbeside
  refine ⟨_, n, hl, ?_⟩
  obtain ⟨hnotDone, hfrm, hf⟩ | ⟨hdone, x, j, full, hx, hf⟩ := hbeside <;> rw [hf] at hended ⊢
  · have hfault := hended.resolve_left hnotDone
    exact ⟨hended, .inl ⟨hfault, hfault, rfl, rfl, hfrm⟩⟩
  · exact ⟨.inl hdone, .inr ⟨hdone, x, j, hx, hended, rfl, rfl, rfl, rfl, rfl, rfl, rfl⟩⟩

end Sys2Proof.Machine

/-!
PROOFS. A faulting engine step (60_exceptions.md R203 to R205): of the engine's moves only a failed fetch or check leaves STATE = FAULT, and
that move is the one fault entry, which changes CAUSE and STATE alone.
-/

namespace Sys2Proof.Machine

/-- The end of an LCW phase is no fault: the job ends DONE or runs on in the XD phase (R113, R188). -/
theorem State.lcwTerminate_ne_fault {s : State} (hrun : s.st = .running) (full : Bool) : (s.lcwTerminate full).st ≠ .fault := by
  obtain ⟨-, ht⟩ | ⟨-, ht⟩ := s.lcwTerminate_cases full <;> rw [ht]
  · simp [hrun]
  · simp

/-- Every move of a running job but the fault entry completes, so it leaves the job running or DONE. -/
theorem EngineMove.eq_raise_of_fault {s t : State} (h : EngineMove s t) (hrun : s.st = .running) (hfault : t.st = .fault) :
    ∃ f : Cause, f.OfEngine ∧ t = s.raise f := by
  cases h with
  | faults _ f hf => exact ⟨f, hf, rfl⟩
  | clears | endsXd => cases hfault
  | fillsBuffer => exact absurd hfault (State.lcwTerminate_ne_fault hrun true)
  | endsLcw => exact absurd hfault (State.lcwTerminate_ne_fault (s := s.advance 1 0) hrun false)
  | writesScr | updatesFrm | skips => cases hrun.symm.trans hfault

theorem Cause.OfEngine.ne_illegalCommand {f : Cause} (hf : f.OfEngine) : f ≠ .illegalCommand := by
  obtain rfl | rfl | rfl := hf <;> decide

/-- Settles O36: the step is the fault entry, and a faulted block rests at its next engine turn. -/
theorem faultingStepWritesNothing : Obligations.FaultingStepWritesNothing := by
  intro s t hlegal hturn hrun hstep hfault
  rw [step_of_engineTurn hlegal hturn] at hstep
  obtain ⟨hst, -⟩ | ⟨-, hmove⟩ := engineAction_moves hstep
  · exact absurd hrun hst
  · obtain ⟨f, hf, rfl⟩ := hmove.eq_raise_of_fault hrun hfault
    exact ⟨rfl, hf, fun hnext => engineRestsUnlessRunning _ hf.ne_illegalCommand hnext (by simp)⟩

end Sys2Proof.Machine

/-!
PROOFS. The reset turn (70_reset_and_hazards.md R230, R231): whatever runs, the step is `State.assertReset`, whose registers and memories
are those of the state after reset.
-/

namespace Sys2Proof.Machine

/-- A reset turn does nothing but reset, and neither STATE nor JOB is looked at (R231). -/
theorem step_of_resetTurn {s : State} (hlegal : s.cause ≠ .illegalCommand) (hturn : s.nextTurn = .reset) :
    step s = .next s.popTurn.assertReset := by
  rw [step_of_legal hlegal, hturn]
  rfl

/-- What log 11 keeps across a reset besides the sizes is the model's own record, which no register word shows. -/
theorem State.assertReset_regValue (s : State) (r : Reg) : s.assertReset.regValue r = (State.resetWith s.params).regValue r := by
  cases r <;> rfl

theorem State.assertReset_mem (s : State) (m : Mem) : s.assertReset.mem m = [] := by
  cases m <;> rfl

/-- Settles O50: the step is the reset, and the registers are those of O1. -/
theorem resetAbandonsTheJob : Obligations.ResetAbandonsTheJob := by
  intro s hlegal hturn
  obtain ⟨hregs, -⟩ := resetClearsEveryRegister s.params
  refine ⟨_, step_of_resetTurn hlegal hturn, rfl, rfl, rfl, fun r => ?_, fun m a => ?_⟩
  · rw [State.assertReset_regValue]
    exact hregs r
  · rw [State.assertReset_mem, Memory.lookup_nil]

end Sys2Proof.Machine
